-- ==== Sys2Proof/Word.lean ====
section
/-! DEFINITION. Word, byte and timestamp types of the KCAN core (00_scope.md R11). -/

namespace Sys2Proof

/-- A word is 32 bits (R11). -/
abbrev Word := BitVec 32

/-- A byte is 8 bits (R11). -/
abbrev Byte := BitVec 8

/-- A 64-bit hardware timestamp, in ticks of the CAN core clock (R88). -/
abbrev Stamp := BitVec 64

end Sys2Proof
end

