-- ==== Sys2Proof/Config.lean ====
section
/-! DEFINITION. Implementation parameters (00_scope.md R9), the records they and the free values are made of, and
the free values themselves (constants without a body). -/

namespace Sys2Proof

/-- The named registers of the attached controller (10_state.md R46); their offsets are the open parameter
`REG_OFFSETS` and no rule uses them (D40). -/
inductive RegName where
  | cmd | mode | ctrl | fifo | txNpackets | irq | ien | btrn | btrd
deriving DecidableEq, Repr, Inhabited

/-- The per-channel part of `Cfg` (R9): restart policy (0 = manual), capability flags, one-shot mode. -/
structure ChanCfg where
  restartMs  : Nat
  fdCap      : Bool
  oneshotCap : Bool
  oneshot    : Bool
deriving DecidableEq, Repr, Inhabited

/-- One value for each channel the device can have: R9 bounds `N` by 4. -/
structure Quad (α : Type) where
  c0 : α
  c1 : α
  c2 : α
  c3 : α
deriving DecidableEq, Repr, Inhabited

/-- The configuration record of R9. It supplies a per-channel record for every channel there can be; those from `N` on are
read by no rule (log 30). `TX_MAX` is derived (`Cfg.txMax` in Machine/Operands.lean). The two tick
counts have the 32-bit width of the counters they load (R21; log 23). -/
structure Cfg where
  n           : Nat
  k           : Nat
  coreClockHz : Nat
  busClockHz  : Nat
  tWait       : BitVec 32
  tPoll       : BitVec 32
  chan        : Quad ChanCfg
  regOffsets  : List (RegName × Nat)
deriving DecidableEq, Repr, Inhabited

/-- A TX frame record (30_encoding.md R118). `len` is the frame's own length field, `data` the bytes it carries;
`VALID` (R220) compares the two. -/
structure TxFrame where
  id   : BitVec 29
  ide  : Bool
  rtr  : Bool
  fdf  : Bool
  brs  : Bool
  esi  : Bool
  len  : Nat
  data : List Byte
deriving DecidableEq, Repr, Inhabited

/-- The draws one operation samples (R15): the hardware-reported in-flight count and whether a buffer can be had. -/
structure Draw where
  hwCount : Byte
  allocOk : Bool
deriving DecidableEq, Repr, Inhabited

namespace Config

/-- Size of one DMA buffer in bytes (R9). -/
def bufBytes : Nat := 4096

/-- Size of one DMA buffer in words (R9). -/
def bufWords : Nat := 1024

/-- Cap of unsolicited error reports (R9, R249). -/
def errCap : Nat := 256

/-- Classifier thresholds (R9). -/
def thWarn : Nat := 96
def thPass : Nat := 128
def thOff : Nat := 255

/-- Default `T_WAIT` (R9, D12). -/
def tWaitDefault : BitVec 32 := 1000

/-- Default `T_POLL` (R9, D12, D29). -/
def tPollDefault : BitVec 32 := 200

/-- A channel of the configuration that 95_test_vectors.md uses throughout: manual restart, FD, no one-shot.
DESIGN CHOICE (log 1): `ONESHOT_CAP` is not given there; false. -/
def testChan : ChanCfg := { restartMs := 0, fdCap := true, oneshotCap := false, oneshot := false }

/-- The configuration of 95_test_vectors.md (its opening paragraph), with which the model's reset state is attached.
DESIGN CHOICE (log 1): `Cfg` is supplied at attach; `BUS_CLOCK_HZ` and `REG_OFFSETS` are used by no rule. -/
def attachCfg : Cfg :=
  { n := 1, k := 16, coreClockHz := 80000000, busClockHz := 0, tWait := tWaitDefault, tPoll := tPollDefault,
    chan := ⟨testChan, testChan, testChan, testChan⟩, regOffsets := [] }

/-- Free value (R15, D21, D27; log 7): the draws of an operation for which the environment has fixed none. -/
opaque freeDraw : Nat → Draw

/-- Free value (R284; log 16): which pending notification source the handler takes next when the environment has fixed
none. -/
opaque freePick : Nat → Nat

/-- Free value (R300 "FRAME unspecified"; log 3): what ATTACH leaves in the `FRAME` field of an echo slot. -/
opaque freeFrame : Nat → TxFrame

end Config

end Sys2Proof
end

