-- ==== Sys2Proof/Syntax.lean ====
section
/-! DEFINITION. The operations of the KCAN core, one constructor of `Instr` per row of spec/opcode_table.json, with
the operand records of 30_encoding.md and 40_codec.md, and the three streams they arrive on. -/

namespace Sys2Proof

/-- A DMA buffer index `b` in {0, 1} (R40). -/
inductive Buf where
  | b0 | b1
deriving DecidableEq, Repr, Inhabited

/-- What every ring packet carries (R85, R87, R88): the declared `SIZE` in words, the channel id and the timestamp.
`SIZE` is kept because the framing check (R170) compares it with the computed length. -/
structure Hdr where
  size : Nat
  ch   : BitVec 3
  ts   : Stamp
deriving DecidableEq, Repr, Inhabited

/-- `DATA` (R92, R132). `len` of R132 is `DataPkt.len`, a function of `dlc` and `fdf` (R141). -/
structure DataPkt where
  id   : BitVec 29
  rtr  : Bool
  ide  : Bool
  dlc  : BitVec 4
  esi  : Bool
  brs  : Bool
  fdf  : Bool
  data : List Byte
deriving DecidableEq, Repr, Inhabited

/-- `ACK` (R93). -/
structure AckPkt where
  seq  : Byte
  flu  : Bool
  ct   : Bool
  abl  : Bool
  nack : Bool
deriving DecidableEq, Repr, Inhabited

/-- `STATUS` (R94); `aut` is the `AUTO` flag. -/
structure StatusPkt where
  seq   : Byte
  txerr : Byte
  rxerr : Byte
  boff  : Bool
  idet  : Bool
  irm   : Bool
  rmcd  : Bool
  aut   : Bool
  ewlr  : Bool
  eplr  : Bool
deriving DecidableEq, Repr, Inhabited

/-- `ERROR` (R95). -/
structure ErrorPkt where
  txerr : Byte
  rxerr : Byte
  boff  : Bool
  irm   : Bool
  ewlr  : Bool
  eplr  : Bool
  dirTx : Bool
deriving DecidableEq, Repr, Inhabited

/-- `TXRQ`, `EFRAME_ACK`, `ACK_DATA`, `BUS_LOAD` and the unassigned types (R97, R132): carried opaquely. -/
structure OpaquePkt where
  word0   : Word
  word1lo : BitVec 25
  extra   : List Word
deriving DecidableEq, Repr, Inhabited

/-- The fields of the TX frame words (R118); `seq` is the echo-slot index. -/
structure TxWords where
  id   : BitVec 29
  rtr  : Bool
  ide  : Bool
  seq  : Byte
  dlc  : BitVec 4
  esi  : Bool
  brs  : Bool
  fdf  : Bool
  sms  : Bool
  data : List Byte
deriving DecidableEq, Repr, Inhabited

/-- The two command types of `write_command` (R180). -/
inductive Opcode where
  | requestStatus | abortFlushReset
deriving DecidableEq, Repr, Inhabited

/-- The operations, one constructor per row of spec/opcode_table.json. Ring packets and markers arrive in a DMA
buffer (R85, R86); outbound words on the register surface of channel `c` (R110-R112, R118); the rest on the request
port (R122). -/
inductive Instr where
  -- ring packets, by TYPE code (R90)
  | data (h : Hdr) (p : DataPkt)
  | ack (h : Hdr) (p : AckPkt)
  | txrq (h : Hdr) (p : OpaquePkt)
  | error (h : Hdr) (p : ErrorPkt)
  | eflushAck (h : Hdr) (seq : Byte)
  | eframeAck (h : Hdr) (p : OpaquePkt)
  | ackData (h : Hdr) (p : OpaquePkt)
  | unknown7 (h : Hdr) (p : OpaquePkt)
  | status (h : Hdr) (p : StatusPkt)
  | busLoad (h : Hdr) (p : OpaquePkt)
  | unknownA (h : Hdr) (p : OpaquePkt)
  | unknownB (h : Hdr) (p : OpaquePkt)
  | unknownC (h : Hdr) (p : OpaquePkt)
  | unknownD (h : Hdr) (p : OpaquePkt)
  | unknownE (h : Hdr) (p : OpaquePkt)
  | unknownF (h : Hdr) (p : OpaquePkt)
  -- ring markers, by SIZE word (R162, R163)
  | endMark
  | undersize1
  | undersize2
  | undersize3
  | undersize4
  -- outbound words (R110, R111, R112, R118)
  | requestStatus (c : Nat) (seq : Byte)
  | abortFlushReset (c : Nat) (seq : Byte)
  | eflush (c : Nat)
  | modeClearRm (c : Nat)
  | modeClearEpen (c : Nat)
  | modeSetEpen (c : Nat)
  | txFrame (c : Nat) (f : TxWords)
  -- request port (R122)
  | attach (cfg : Cfg)
  | detach
  | buson (c : Nat)
  | stop (c : Nat)
  | submit (c : Nat) (f : TxFrame) (hwPre hwPost : Byte)
  | tick
  | rxReady (b : Buf)
  | txStatus (c : Nat)
  | dmaOverflow (b : Buf)
  | dmaUnderflow (b : Buf)
deriving DecidableEq, Repr, Inhabited

/-- `BUSOFF_REQ c` is another name of `STOP c` (R127, D14). -/
abbrev Instr.busoffReq (c : Nat) : Instr := .stop c

/-- A message on the abstract request port (R122): the 8-bit event code and the operand lines of that rule's table.
An operation reads the lines its row names and no other. DESIGN CHOICE (log 12): the spec gives the operands no
encoding. -/
structure PortMsg where
  code   : Byte
  cfg    : Cfg
  chan   : Nat
  buf    : Nat
  frame  : TxFrame
  hwPre  : Byte
  hwPost : Byte
deriving DecidableEq, Repr, Inhabited

/-- One write on the register surface (R46): the register by name, the channel, the value. A `MODE` write is the
read-modify-write of R112, a `FIFO` write the successive words of one TX frame (R118). -/
inductive RegWrite where
  | cmd (c : Nat) (w : Word)
  | ctrl (c : Nat) (w : Word)
  | mode (c : Nat) (mask value : Word)
  | fifo (c : Nat) (ws : List Word)
deriving DecidableEq, Repr, Inhabited

/-- What the decoder is given: the words of a DMA buffer from the cursor to its end, a request-port message, or a
register write. -/
inductive Fetched where
  | ring (ws : List Word)
  | port (m : PortMsg)
  | reg (w : RegWrite)
deriving DecidableEq, Repr, Inhabited

end Sys2Proof
end

