-- ==== Sys2Proof/WellFormed.lean ====
section
/-! DEFINITION. Which operand values the encodings admit (30_encoding.md, 40_codec.md R132, R151): the check an
instruction passes exactly when its encoding holds every operand. A ring packet passes it when it is a packet value that
`ENCODE` takes (R151). -/

namespace Sys2Proof

/-- Data length of a DLC (R100), stated here for the constraint of R132 on `data`; the decoder's own tables are
`dlc2lenFd` and `dlc2lenCc` in Decode.lean. -/
def wfDlcLen (fdf : Bool) (dlc : BitVec 4) : Nat :=
  if dlc.toNat ≤ 8 then dlc.toNat
  else if fdf then [12, 16, 20, 24, 32, 48, 64].getD (dlc.toNat - 9) 0
  else 8

/-- R151: the declared size is the length of the packet's words, which fit the buffer (R85). A packet with another
declared size can stand in a buffer (R170), but no `ENCODE` gives it. -/
def Hdr.wellFormed (h : Hdr) (len : Nat) : Bool := h.size == len && len ≤ Config.bufWords

/-- R132: `data` holds exactly the payload bytes. Every `DLC` is admitted, also 9 to 15 in a classic frame (log 31). -/
def DataPkt.wellFormed (p : DataPkt) : Bool :=
  p.data.length == (if p.rtr then 0 else wfDlcLen p.fdf p.dlc)

/-- R152: five words and the payload, four bytes a word. -/
def DataPkt.encLen (p : DataPkt) : Nat := 5 + (p.data.length + 3) / 4

/-- R97, R157: the extra words are those the declared size leaves after the fifth. -/
def OpaquePkt.encLen (p : OpaquePkt) : Nat := 5 + p.extra.length

/-- R118, R101: a classic frame has a DLC of at most 8, and `data` holds exactly the payload bytes. -/
def TxWords.wellFormed (f : TxWords) : Bool :=
  (f.fdf || f.dlc.toNat ≤ 8) && f.data.length == (if f.rtr then 0 else wfDlcLen true f.dlc)

/-- R9, R20: a channel index is below the largest `N`, 4. -/
def chanOk (c : Nat) : Bool := c < 4

/-- R118: `LEN` is 0..64. -/
def TxFrame.wellFormed (f : TxFrame) : Bool := f.len ≤ 64

/-- The well-formedness of an operation, one arm per constructor. -/
def Instr.wellFormed : Instr → Bool
  | .data h p => h.wellFormed p.encLen && p.wellFormed
  | .ack h _ => h.wellFormed 5
  | .txrq h p => h.wellFormed p.encLen
  | .error h _ => h.wellFormed 5
  | .eflushAck h _ => h.wellFormed 5
  | .eframeAck h p => h.wellFormed p.encLen
  | .ackData h p => h.wellFormed p.encLen
  | .unknown7 h p => h.wellFormed p.encLen
  | .status h _ => h.wellFormed 5
  | .busLoad h p => h.wellFormed p.encLen
  | .unknownA h p => h.wellFormed p.encLen
  | .unknownB h p => h.wellFormed p.encLen
  | .unknownC h p => h.wellFormed p.encLen
  | .unknownD h p => h.wellFormed p.encLen
  | .unknownE h p => h.wellFormed p.encLen
  | .unknownF h p => h.wellFormed p.encLen
  | .endMark => true
  | .undersize1 => true
  | .undersize2 => true
  | .undersize3 => true
  | .undersize4 => true
  | .requestStatus c _ => chanOk c
  | .abortFlushReset c _ => chanOk c
  | .eflush c => chanOk c
  | .modeClearRm c => chanOk c
  | .modeClearEpen c => chanOk c
  | .modeSetEpen c => chanOk c
  | .txFrame c f => chanOk c && f.wellFormed
  | .attach _ => true
  | .detach => true
  | .buson c => chanOk c
  | .stop c => chanOk c
  | .submit c f _ _ => chanOk c && f.wellFormed
  | .tick => true
  | .rxReady _ => true
  | .txStatus c => chanOk c
  | .dmaOverflow _ => true
  | .dmaUnderflow _ => true

end Sys2Proof
end

