-- ==== Sys2Proof/Decode.lean ====
section
/-! DEFINITION. The Packet Codec (40_codec.md) with the encodings of 30_encoding.md: decoding is total on any words,
rejecting by name; the encoder stands after it. -/

namespace Sys2Proof

/-! ### Fields, bytes and lengths -/

/-- `ceil4(n) = (n + 3) div 4` (R11). -/
def ceil4 (n : Nat) : Nat := (n + 3) / 4

/-- Bit `i` of a word as a Boolean (R11). -/
def bitAt (w : Word) (i : Nat) : Bool := w.getLsbD i

/-- The low `n` bits of `w` shifted right by `lo`: the field `w[lo+n-1:lo]` (R11). -/
def field (w : Word) (lo n : Nat) : BitVec n := w.extractLsb' lo n

/-- A field placed at bit `lo` of an otherwise zero word. -/
def putField {n : Nat} (v : BitVec n) (lo : Nat) : Word := v.setWidth 32 <<< lo

/-- A flag placed at bit `i` of an otherwise zero word. -/
def putBit (b : Bool) (i : Nat) : Word := putField (BitVec.ofBool b) i

/-- The four bytes of a word in buffer order (R61, R63). -/
def wordBytes (w : Word) : List Byte := [field w 0 8, field w 8 8, field w 16 8, field w 24 8]

/-- The word assembled little-endian from four bytes (R61). -/
def wordOfBytes (b0 b1 b2 b3 : Byte) : Word :=
  putField b0 0 ||| putField b1 8 ||| putField b2 16 ||| putField b3 24

/-- Payload bytes in frame order, the last word padded with 0 (R63). -/
def packBytes : List Byte → List Word
  | [] => []
  | [a] => [wordOfBytes a 0 0 0]
  | [a, b] => [wordOfBytes a b 0 0]
  | [a, b, c] => [wordOfBytes a b c 0]
  | a :: b :: c :: d :: t => wordOfBytes a b c d :: packBytes t

/-- The first `n` payload bytes of the payload words (R63, R141); padding bytes are not read. -/
def unpackBytes (n : Nat) (ws : List Word) : List Byte :=
  ((ws.take (ceil4 n)).flatMap wordBytes).take n

/-- `DLC2LEN_FD` (R100). -/
def dlc2lenFd (dlc : BitVec 4) : Nat :=
  [0, 1, 2, 3, 4, 5, 6, 7, 8, 12, 16, 20, 24, 32, 48, 64].getD dlc.toNat 0

/-- `DLC2LEN_CC` (R100): classic codes above 8 mean 8 bytes. -/
def dlc2lenCc (dlc : BitVec 4) : Nat := min dlc.toNat 8

/-- `LEN2DLC` (R101), defined only on the sixteen valid lengths. -/
def len2dlc (n : Nat) : Option (BitVec 4) :=
  ((List.range 16).find? fun i => dlc2lenFd (BitVec.ofNat 4 i) == n).map (BitVec.ofNat 4)

/-- The `len` of a `Data` packet (R141). -/
def DataPkt.len (p : DataPkt) : Nat := if p.fdf then dlc2lenFd p.dlc else dlc2lenCc p.dlc

/-- `PAYLEN` (R89): payload bytes of a `DATA` packet. -/
def DataPkt.payLen (p : DataPkt) : Nat := if p.rtr then 0 else p.len

/-- `LEN` (R89) of a `DATA` packet, in words. -/
def DataPkt.words (p : DataPkt) : Nat := 5 + ceil4 p.payLen

/-- Payload bytes of a TX frame (R118): none for a remote frame. -/
def TxWords.payLen (f : TxWords) : Nat := if f.rtr then 0 else dlc2lenFd f.dlc

/-! ### Numeric codes of the outbound words -/

/-- Mode register masks (R112): `RM` is bit 8, `EPEN` bit 12. -/
def maskRm : Word := 0x100
def maskEpen : Word := 0x1000

/-- The control word of the end-of-flush (R111). -/
def eflushWord : Word := 0x80000000

/-- `ENCODE_CMD(seq, opcode)` (R110, R158): `SEQ` in bits 23:16, `AT` bit 1, `SRQ` bit 0. -/
def encodeCmd (seq : Byte) : Opcode → Word
  | .requestStatus => putField seq 16 ||| 1
  | .abortFlushReset => putField seq 16 ||| 2

/-- The words written to the FIFO for one TX frame (R118). -/
def encodeTxWords (f : TxWords) : List Word :=
  (putField f.id 0 ||| putBit f.rtr 29 ||| putBit f.ide 30)
    :: (putField f.seq 0 ||| putField f.dlc 8 ||| putBit f.esi 13 ||| putBit f.brs 14 ||| putBit f.fdf 15
        ||| putBit f.sms 16 ||| putBit true 31)
    :: packBytes f.data

/-! ### Decoding -/

/-- Why a fetched item is no operation. -/
inductive DecodeError where
  /-- the packet does not fit the words left in the buffer (R131, R133); the consumer takes `MalformedPacket` -/
  | overrun
  /-- a request-port event code that R122 does not list -/
  | unknownEvent (code : Byte)
  /-- a buffer index other than 0 and 1 (R122) -/
  | noSuchBuffer (b : Nat)
  /-- a `CMD` word that is neither command (R110; R46 "exactly one of AT, SRQ set") -/
  | badCommand (w : Word)
  /-- a `CTRL` word that is not the end-of-flush (R111) -/
  | badControl (w : Word)
  /-- a mode write that is none of the three of R112 -/
  | badMode (mask value : Word)
  /-- FIFO words that are not one TX frame (R118) -/
  | badTxFrame
deriving DecidableEq, Repr

/-- `DECODE_DATA` (R141); `rest` are the words from `pos + 5` on. -/
def decodeData (word0 word1 : Word) (rest : List Word) : DataPkt :=
  let p : DataPkt :=
    { id := field word0 0 29, rtr := bitAt word0 29, ide := bitAt word0 30, dlc := field word1 8 4,
      esi := bitAt word1 13, brs := bitAt word1 14, fdf := bitAt word1 15, data := [] }
  { p with data := unpackBytes p.payLen rest }

/-- `DECODE_ACK` (R142). -/
def decodeAck (word0 : Word) : AckPkt :=
  { seq := field word0 0 8, flu := bitAt word0 8, ct := bitAt word0 9, abl := bitAt word0 10, nack := bitAt word0 11 }

/-- `DECODE_STATUS` (R143). -/
def decodeStatus (word0 word1 : Word) : StatusPkt :=
  { txerr := field word0 0 8, rxerr := field word0 8 8, boff := bitAt word0 16, idet := bitAt word0 20,
    irm := bitAt word0 21, rmcd := bitAt word0 22, seq := field word1 0 8, aut := bitAt word1 21,
    ewlr := bitAt word1 23, eplr := bitAt word1 24 }

/-- `DECODE_ERROR` (R144). -/
def decodeErrorPkt (word0 word1 : Word) : ErrorPkt :=
  { txerr := field word0 0 8, rxerr := field word0 8 8, boff := bitAt word0 16, irm := bitAt word0 21,
    dirTx := bitAt word1 0, ewlr := bitAt word1 23, eplr := bitAt word1 24 }

/-- The opaque packets (R146-R150): `word0`, `word1[24:0]` and the words after the fifth. -/
def decodeOpaque (size : Nat) (word0 word1 : Word) (rest : List Word) : OpaquePkt :=
  { word0 := word0, word1lo := field word1 0 25, extra := rest.take (size - 5) }

/-- `LEN(word0, word1)` (R89) of a packet whose declared size is `size`, in words. -/
def packetLen (size : Nat) (word0 word1 : Word) : Nat :=
  match (field word1 28 4).toNat with
  | 0 => (decodeData word0 word1 []).words
  | 1 | 3 | 4 | 8 => 5
  | _ => size

/-- `DECODE_<TYPE>` (R90, R141-R150) by the top four bits of `word1`. -/
def decodePacket (h : Hdr) (word0 word1 : Word) (rest : List Word) : Instr :=
  match (field word1 28 4).toNat with
  | 0 => .data h (decodeData word0 word1 rest)
  | 1 => .ack h (decodeAck word0)
  | 2 => .txrq h (decodeOpaque h.size word0 word1 rest)
  | 3 => .error h (decodeErrorPkt word0 word1)
  | 4 => .eflushAck h (field word1 0 8)
  | 5 => .eframeAck h (decodeOpaque h.size word0 word1 rest)
  | 6 => .ackData h (decodeOpaque h.size word0 word1 rest)
  | 7 => .unknown7 h (decodeOpaque h.size word0 word1 rest)
  | 8 => .status h (decodeStatus word0 word1)
  | 9 => .busLoad h (decodeOpaque h.size word0 word1 rest)
  | 10 => .unknownA h (decodeOpaque h.size word0 word1 rest)
  | 11 => .unknownB h (decodeOpaque h.size word0 word1 rest)
  | 12 => .unknownC h (decodeOpaque h.size word0 word1 rest)
  | 13 => .unknownD h (decodeOpaque h.size word0 word1 rest)
  | 14 => .unknownE h (decodeOpaque h.size word0 word1 rest)
  | _ => .unknownF h (decodeOpaque h.size word0 word1 rest)

/-- There are at least `n` words (`hasWords_iff` in Laws/Codec.lean: `n ≤ ws.length`), looking at no more than `n`. -/
def hasWords : List Word → Nat → Bool
  | _, 0 => true
  | [], _ + 1 => false
  | _ :: t, n + 1 => hasWords t n

/-- `DECODE(b, pos)` (R131) on the words of the buffer from `pos` to its end: `ws.length = BUF_WORDS - pos`, so that
`pos + s > BUF_WORDS` says that there are fewer than `s` words. The end marker (R162) and the four undersize markers (R163) are operations
of their own; `overrun` is the other failure of R133. -/
def decodeRing (ws : List Word) : Except DecodeError Instr :=
  match (ws.getD 0 0).toNat with
  | 0 => .ok .endMark
  | 1 => .ok .undersize1
  | 2 => .ok .undersize2
  | 3 => .ok .undersize3
  | 4 => .ok .undersize4
  | s =>
    let word0 := ws.getD 1 0
    let word1 := ws.getD 2 0
    let h : Hdr := { size := s, ch := field word1 25 3, ts := ws.getD 4 0 ++ ws.getD 3 0 }
    if !hasWords ws s then .error .overrun
    else if !hasWords ws (packetLen s word0 word1) then .error .overrun
    else .ok (decodePacket h word0 word1 (ws.drop 5))

/-- The buffer index of a request (R122). -/
def decodeBuf (b : Nat) : Except DecodeError Buf :=
  match b with
  | 0 => .ok .b0
  | 1 => .ok .b1
  | _ => .error (.noSuchBuffer b)

/-- The request port's event codes (R122). -/
def decodePort (m : PortMsg) : Except DecodeError Instr :=
  match m.code.toNat with
  | 0x00 => .ok (.attach m.cfg)
  | 0x01 => .ok .detach
  | 0x10 => .ok (.buson m.chan)
  | 0x11 => .ok (.stop m.chan)
  | 0x12 => .ok (.submit m.chan m.frame m.hwPre m.hwPost)
  | 0x20 => .ok .tick
  | 0x30 => (decodeBuf m.buf).map .rxReady
  | 0x31 => .ok (.txStatus m.chan)
  | 0x32 => (decodeBuf m.buf).map .dmaOverflow
  | 0x33 => (decodeBuf m.buf).map .dmaUnderflow
  | _ => .error (.unknownEvent m.code)

/-- The fields of the FIFO words of one TX frame (R118): `AREQ` is 1, and there are as many payload words as the
frame's length needs. -/
def decodeTxWords (ws : List Word) : Option TxWords :=
  let t0 := ws.getD 0 0
  let t1 := ws.getD 1 0
  let f : TxWords :=
    { id := field t0 0 29, rtr := bitAt t0 29, ide := bitAt t0 30, seq := field t1 0 8, dlc := field t1 8 4,
      esi := bitAt t1 13, brs := bitAt t1 14, fdf := bitAt t1 15, sms := bitAt t1 16, data := [] }
  if bitAt t1 31 && ws.length == 2 + ceil4 f.payLen then
    some { f with data := unpackBytes f.payLen (ws.drop 2) }
  else none

/-- The outbound words (R110, R111, R112, R118). -/
def decodeReg : RegWrite → Except DecodeError Instr
  | .cmd c w =>
    if w = encodeCmd (field w 16 8) .requestStatus then .ok (.requestStatus c (field w 16 8))
    else if w = encodeCmd (field w 16 8) .abortFlushReset then .ok (.abortFlushReset c (field w 16 8))
    else .error (.badCommand w)
  | .ctrl c w => if w = eflushWord then .ok (.eflush c) else .error (.badControl w)
  | .mode c mask value =>
    if mask = maskRm ∧ value = 0 then .ok (.modeClearRm c)
    else if mask = maskEpen ∧ value = 0 then .ok (.modeClearEpen c)
    else if mask = maskEpen ∧ value = maskEpen then .ok (.modeSetEpen c)
    else .error (.badMode mask value)
  | .fifo c ws =>
    match decodeTxWords ws with
    | some f => .ok (.txFrame c f)
    | none => .error .badTxFrame

/-- The decoder: an operation, or why there is none. -/
def decode : Fetched → Except DecodeError Instr
  | .ring ws => decodeRing ws
  | .port m => decodePort m
  | .reg w => decodeReg w

/-! ### Encoding -/

/-- The words of a ring packet (R85, R151): the size word is the length of the whole list, whatever declared size the
operation was read with (log 28). -/
def ringWords (h : Hdr) (typ : BitVec 4) (word0 word1 : Word) (payload : List Word) : List Word :=
  BitVec.ofNat 32 (5 + payload.length) :: word0 :: (word1 ||| putField h.ch 25 ||| putField typ 28)
    :: h.ts.extractLsb' 0 32 :: h.ts.extractLsb' 32 32 :: payload

/-- `ENCODE` of `Data` (R152): the packet's own `DLC` is written back, also 9 to 15 in a classic frame. DEDUCED (log 31): R101
says that encode produces no such code, of the encoder that takes a length; R152 and R159 take a `DLC`. -/
def encodeData (h : Hdr) (p : DataPkt) : List Word :=
  ringWords h 0 (putField p.id 0 ||| putBit p.rtr 29 ||| putBit p.ide 30)
    (putField p.dlc 8 ||| putBit p.esi 13 ||| putBit p.brs 14 ||| putBit p.fdf 15) (packBytes p.data)

/-- `ENCODE` of `Ack` (R153). -/
def encodeAck (h : Hdr) (p : AckPkt) : List Word :=
  ringWords h 1 (putField p.seq 0 ||| putBit p.flu 8 ||| putBit p.ct 9 ||| putBit p.abl 10 ||| putBit p.nack 11) 0 []

/-- `ENCODE` of `Status` (R154). -/
def encodeStatus (h : Hdr) (p : StatusPkt) : List Word :=
  ringWords h 8
    (putField p.txerr 0 ||| putField p.rxerr 8 ||| putBit p.boff 16 ||| putBit p.idet 20 ||| putBit p.irm 21
      ||| putBit p.rmcd 22)
    (putField p.seq 0 ||| putBit p.aut 21 ||| putBit p.ewlr 23 ||| putBit p.eplr 24) []

/-- `ENCODE` of `Error` (R155). -/
def encodeErrorPkt (h : Hdr) (p : ErrorPkt) : List Word :=
  ringWords h 3 (putField p.txerr 0 ||| putField p.rxerr 8 ||| putBit p.boff 16 ||| putBit p.irm 21)
    (putBit p.dirTx 0 ||| putBit p.ewlr 23 ||| putBit p.eplr 24) []

/-- `ENCODE` of `EflushAck` (R156). -/
def encodeEflushAck (h : Hdr) (seq : Byte) : List Word := ringWords h 4 0 (putField seq 0) []

/-- `ENCODE` of the opaque packets (R157). -/
def encodeOpaque (h : Hdr) (typ : BitVec 4) (p : OpaquePkt) : List Word :=
  ringWords h typ p.word0 (putField p.word1lo 0) p.extra

/-- A request-port message with an event code and no operand lines. -/
def portMsg (code : Byte) : PortMsg :=
  { code := code, cfg := default, chan := 0, buf := 0, frame := default, hwPre := 0, hwPost := 0 }

/-- The number of a buffer index (R40). -/
def Buf.num : Buf → Nat
  | .b0 => 0
  | .b1 => 1

/-- The encoder: the words of an operation on its stream (R151-R158, R122). -/
def encode : Instr → Fetched
  | .data h p => .ring (encodeData h p)
  | .ack h p => .ring (encodeAck h p)
  | .txrq h p => .ring (encodeOpaque h 2 p)
  | .error h p => .ring (encodeErrorPkt h p)
  | .eflushAck h q => .ring (encodeEflushAck h q)
  | .eframeAck h p => .ring (encodeOpaque h 5 p)
  | .ackData h p => .ring (encodeOpaque h 6 p)
  | .unknown7 h p => .ring (encodeOpaque h 7 p)
  | .status h p => .ring (encodeStatus h p)
  | .busLoad h p => .ring (encodeOpaque h 9 p)
  | .unknownA h p => .ring (encodeOpaque h 10 p)
  | .unknownB h p => .ring (encodeOpaque h 11 p)
  | .unknownC h p => .ring (encodeOpaque h 12 p)
  | .unknownD h p => .ring (encodeOpaque h 13 p)
  | .unknownE h p => .ring (encodeOpaque h 14 p)
  | .unknownF h p => .ring (encodeOpaque h 15 p)
  | .endMark => .ring [0]
  | .undersize1 => .ring [1]
  | .undersize2 => .ring [2]
  | .undersize3 => .ring [3]
  | .undersize4 => .ring [4]
  | .requestStatus c q => .reg (.cmd c (encodeCmd q .requestStatus))
  | .abortFlushReset c q => .reg (.cmd c (encodeCmd q .abortFlushReset))
  | .eflush c => .reg (.ctrl c eflushWord)
  | .modeClearRm c => .reg (.mode c maskRm 0)
  | .modeClearEpen c => .reg (.mode c maskEpen 0)
  | .modeSetEpen c => .reg (.mode c maskEpen maskEpen)
  | .txFrame c f => .reg (.fifo c (encodeTxWords f))
  | .attach cfg => .port { portMsg 0x00 with cfg := cfg }
  | .detach => .port (portMsg 0x01)
  | .buson c => .port { portMsg 0x10 with chan := c }
  | .stop c => .port { portMsg 0x11 with chan := c }
  | .submit c f pre post => .port { portMsg 0x12 with chan := c, frame := f, hwPre := pre, hwPost := post }
  | .tick => .port (portMsg 0x20)
  | .rxReady b => .port { portMsg 0x30 with buf := b.num }
  | .txStatus c => .port { portMsg 0x31 with chan := c }
  | .dmaOverflow b => .port { portMsg 0x32 with buf := b.num }
  | .dmaUnderflow b => .port { portMsg 0x33 with buf := b.num }

/-- What stands in the buffer after an item: a ring packet is followed by the rest of its buffer, the other streams
deliver one item at a time. -/
def Fetched.followedBy (rest : List Word) : Fetched → Fetched
  | .ring ws => .ring (ws ++ rest)
  | f => f

/-! ### One table word -/

/-- The ring packet whose `word1` is `w` and whose other words are zero, with the declared size its own length
(R89): what a table row that gives bits of `word1` stands for. -/
def tablePacket (w : Word) : List Word :=
  let s := packetLen 5 0 w
  BitVec.ofNat 32 s :: 0 :: w :: List.replicate (s - 3) 0

/-- The item a table word of `nbits` bits stands for. The rows of spec/opcode_table.json give bits of DIFFERENT words
(an event code, `SIZE`, `word1`, `CMD`, `CTRL`, `MODE`), so one number can match several rows; the row with the most
fixed bits is taken (log 11). -/
def tableFetched (nbits w : Nat) : Fetched :=
  let v : Word := BitVec.ofNat 32 w
  if nbits ≤ 8 then .port (portMsg (BitVec.ofNat 8 w))
  else if nbits ≤ 16 then .reg (.mode 0 (if bitAt v 12 then maskEpen else maskRm) (if bitAt v 12 then maskEpen else 0))
  else if v.toNat ≤ 4 then .ring [v]
  else if v = eflushWord then .reg (.ctrl 0 v)
  else if v = maskEpen then .reg (.mode 0 maskEpen maskEpen)
  else if v = encodeCmd (field v 16 8) .requestStatus ∨ v = encodeCmd (field v 16 8) .abortFlushReset then
    .reg (.cmd 0 v)
  else .ring (tablePacket v)

/-- The operation the decoder reads from a table word (log 11). -/
def decodeTableWord (nbits w : Nat) : Option Instr := (decode (tableFetched nbits w)).toOption

end Sys2Proof
end

