-- ==== Sys2Proof/Machine/State.lean ====
section
/-! DEFINITION. The architectural state of the KCAN core (10_state.md), its environment's inputs and outputs as plain
data, the reasons a step can stop, and the state after reset (70_reset_and_hazards.md R300). -/

namespace Sys2Proof.Machine

/-! ### Enumerations (30_encoding.md R120) -/

/-- `BusState` (R21, R22). -/
inductive BusState where
  | errorActive | errorWarning | errorPassive | busOff | stopped
deriving DecidableEq, Repr, Inhabited

/-- `Op`: the host request in progress on a channel (R26). -/
inductive Op where
  | none | buson | stop
deriving DecidableEq, Repr, Inhabited

/-- `Stage`: which acknowledgement the request in progress awaits (R26). -/
inductive Stage where
  | waitFlush | waitStart
deriving DecidableEq, Repr, Inhabited

/-- `Result` of a host request (R120). `okSlot` is the `OK(i)` of `SUBMIT` (R220). -/
inductive Result where
  | ok | okSlot (i : Nat) | queueFull | timeout | busy | invalidFrame | refused
deriving DecidableEq, Repr, Inhabited

/-- Why a packet is malformed (R133). -/
inductive Malformed where
  | undersize | overrun
deriving DecidableEq, Repr, Inhabited

/-- Sub-causes of `HardwareProtocolViolation` (R265). -/
inductive Violation where
  | staleSequence | staleFlushAck | unknownSlot | invalidChannel
deriving DecidableEq, Repr, Inhabited

/-- The exceptions of R265 with what each records. -/
inductive Exc where
  | framingError (b : Buf) (cursor : Nat)
  | queueFull
  | timeout
  | allocationFailure (c : Nat)
  | unknownPacketType (c : Nat) (typ : BitVec 4)
  | protocolViolation (v : Violation) (c : Nat)
  | malformedPacket (b : Buf) (cursor : Nat) (why : Malformed)
  | busy
  | invalidFrame
  | refused
deriving DecidableEq, Repr, Inhabited

/-! ### Outputs (00_scope.md R8) -/

/-- What `on_rx_frame` carries (R168). -/
structure RxFrame where
  id   : BitVec 29
  ide  : Bool
  rtr  : Bool
  fdf  : Bool
  brs  : Bool
  esi  : Bool
  len  : Nat
  data : List Byte
  tsNs : Nat
deriving DecidableEq, Repr, Inhabited

/-- A subset of the error classes (R256). -/
structure ErrClasses where
  busError  : Bool := false
  crtl      : Bool := false
  cnt       : Bool := false
  busOff    : Bool := false
  restarted : Bool := false
  lostArb   : Bool := false
  ack       : Bool := false
deriving DecidableEq, Repr, Inhabited

/-- The synthesized error event (R256). -/
structure ErrEvent where
  classes : ErrClasses
  txState : BusState
  rxState : BusState
  txerr   : Byte
  rxerr   : Byte
  tsNs    : Nat
deriving DecidableEq, Repr, Inhabited

/-- The outputs of R8: upward events, downward writes, flow control. -/
inductive Event where
  | onRxFrame (c : Nat) (f : RxFrame)
  | onTxComplete (c slot bytes tsNs : Nat) (ok : Bool)
  | onBusStateChange (c : Nat) (old new : BusState)
  | onBusError (c : Nat) (e : ErrEvent)
  | onRestart (c : Nat)
  | opDone (c : Nat) (op : Op) (r : Result)
  | writeCommand (c : Nat) (seq : Byte) (op : Opcode)
  | writeControl (c : Nat)
  | setModeBits (c : Nat) (mask value : Word)
  | txFifo (c : Nat) (ws : List Word)
  | armDma (b : Buf)
  | txStop (c : Nat)
  | txResume (c : Nat)
deriving DecidableEq, Repr, Inhabited

/-! ### The channel context (10_state.md R21, R42, R50) -/

/-- An echo slot (R42). -/
structure EchoSlot where
  present : Bool
  len     : Nat
  frame   : TxFrame
deriving DecidableEq, Repr, Inhabited

/-- The per-channel statistics counters (R50). -/
structure Counters where
  rxPackets         : BitVec 64
  rxBytes           : BitVec 64
  rxDropped         : BitVec 64
  txPackets         : BitVec 64
  txBytes           : BitVec 64
  txErrors          : BitVec 64
  rxErrors          : BitVec 64
  busErrors         : BitVec 64
  arbLost           : BitVec 64
  restarts          : BitVec 64
  cntWarning        : BitVec 64
  cntPassive        : BitVec 64
  cntBusOff         : BitVec 64
  protoViolations   : BitVec 64
  unknownPackets    : BitVec 64
  unexpectedPackets : BitVec 64
deriving DecidableEq, Repr, Inhabited

/-- The context of one channel (R21) with its echo-slot ring (R42) and its counters (R50). -/
structure Chan where
  busState     : BusState
  cmdSeq       : Byte
  txErr        : Byte
  rxErr        : Byte
  flushPending : Bool
  flushSeq     : Byte
  op           : Op
  stage        : Stage
  waitCnt      : BitVec 32
  pollCnt      : BitVec 32
  errRepCnt    : BitVec 32
  errGenEn     : Bool
  rmShadow     : Bool
  txEnabled    : Bool
  txFull       : Bool
  eofDeferred  : Bool
  echoIdx      : Nat
  slots        : List EchoSlot
  cnt          : Counters
deriving DecidableEq, Repr, Inhabited

/-! ### Device-global state and the environment -/

/-- One value for each DMA buffer. -/
structure Pair (α : Type) where
  b0 : α
  b1 : α
deriving DecidableEq, Repr, Inhabited

/-- The device-global counters (R50). -/
structure GlobalCounters where
  framingErrors  : BitVec 64
  dmaOverflows   : BitVec 64
  dmaUnderflows  : BitVec 64
  invalidChannel : BitVec 64
deriving DecidableEq, Repr, Inhabited

/-- The registers of the attached controller that the core writes, for one channel (R46): what last arrived at each;
`fifo` holds every word written, oldest first (log 8). -/
structure CtlRegs where
  cmd  : Word
  ctrl : Word
  mode : Word
  fifo : List Word
deriving DecidableEq, Repr, Inhabited

/-- One input of the environment (log 6): a request-port message, a write of the hardware into a DMA buffer, or the
turn of the notification handler with the draws of the operation it performs and, should it be idle, which of the
pending sources it takes (R284). -/
inductive Arrival where
  | request (m : PortMsg)
  | fill (b : Buf) (off : Nat) (bytes : List Byte)
  | turn (d : Draw) (pick : Nat)
deriving DecidableEq, Repr, Inhabited

/-- The state of the machine. The first group is the core's (10_state.md), the second the registers of the attached
controller and the DMA buffers it writes, the third the model's own view of the environment. -/
structure State where
  attached   : Bool
  cfg        : Cfg
  channels   : List Chan
  cursor     : Pair Nat
  notifyBusy : Bool
  rxPending  : Pair Bool
  global     : GlobalCounters
  -- the hardware side
  mem        : List Host.Cell
  regs       : List CtlRegs
  -- the model's own fields
  curBuf     : Buf
  held       : List Instr
  outbox     : List RegWrite
  arrivals   : List Arrival
  draw       : Draw
  freeCount  : Nat
  trace      : List Event
  log        : List Exc
  ret        : Option Result
deriving DecidableEq, Repr, Inhabited

/-! ### Why a step stops -/

/-- The machine is stuck: no rule of the spec says what happens. -/
inductive Fault where
  /-- An operation other than `ATTACH` while `G.ATTACHED` = 0 (93_implementation_defined.md U1: stuck). Raised by
  every operation of the core. Safe (log 13). -/
  | notAttached
  /-- A ring packet or marker executed while no buffer is being consumed. The fetch never does this; only a direct
  call of a meaning can. Safe (log 17). -/
  | noConsumption
  /-- A hardware write outside the 4096 bytes of a buffer (R55: no such address). Raised by the environment's `fill`.
  Safe (log 21). -/
  | noSuchAddress
deriving DecidableEq, Repr, Inhabited

/-- The machine was given something that is no operation of the spec. -/
inductive Refusal where
  /-- An instruction without a meaning in this model, by its mnemonic. Raised by `exec` alone. Safe. -/
  | notModelled (mnemonic : String)
  /-- A host request, a notification or a register write naming a channel that does not exist (R20, R282).
  Raised by BUSON, STOP, SUBMIT, TX_STATUS and the outbound words. Safe (log 14). -/
  | noSuchChannel (c : Nat)
  /-- An item that no row of the opcode table encodes. Raised by the fetch. Safe (log 15). -/
  | undecodable (e : DecodeError)
  /-- A hardware write to a buffer the core owns, which R76 says does not happen. Raised by the environment's `fill`.
  Safe (log 21). -/
  | ownedBuffer (b : Buf)
deriving DecidableEq, Repr

/-! ### Reset (R300) -/

/-- A frame record of zeros. DESIGN CHOICE (log 3): the `FRAME` of an empty slot at reset. -/
def zeroFrame : TxFrame :=
  { id := 0, ide := false, rtr := false, fdf := false, brs := false, esi := false, len := 0, data := [] }

/-- The counters of a channel after attach (R50, R300). -/
def zeroCounters : Counters :=
  { rxPackets := 0, rxBytes := 0, rxDropped := 0, txPackets := 0, txBytes := 0, txErrors := 0, rxErrors := 0,
    busErrors := 0, arbLost := 0, restarts := 0, cntWarning := 0, cntPassive := 0, cntBusOff := 0,
    protoViolations := 0, unknownPackets := 0, unexpectedPackets := 0 }

/-- The global counters after attach (R50, R300). -/
def zeroGlobal : GlobalCounters :=
  { framingErrors := 0, dmaOverflows := 0, dmaUnderflows := 0, invalidChannel := 0 }

/-- An empty echo slot (R42, R300) whose unspecified frame is `f`. -/
def emptySlot (f : TxFrame) : EchoSlot := { present := false, len := 0, frame := f }

/-- A channel context after attach (R300) with the given echo-slot ring. -/
def resetChan (slots : List EchoSlot) : Chan :=
  { busState := .stopped, cmdSeq := 0, txErr := 0, rxErr := 0, flushPending := false, flushSeq := 0, op := .none,
    stage := .waitFlush, waitCnt := 0, pollCnt := 0, errRepCnt := 0, errGenEn := true, rmShadow := true,
    txEnabled := false, txFull := false, eofDeferred := false, echoIdx := 0, slots := slots, cnt := zeroCounters }

/-- The controller's registers of one channel at reset. DESIGN CHOICE (log 8): `MODE` agrees with the two shadows
(`RM` = 1, `EPEN` = 1), the rest is zero. -/
def resetRegs : CtlRegs := { cmd := 0, ctrl := 0, mode := 0x1100, fifo := [] }

/-- The device before its first attach (R52: `G.ATTACHED` = 0): no channel context exists. -/
def State.powerOn : State :=
  { attached := false, cfg := { n := 0, k := 0, coreClockHz := 0, busClockHz := 0, tWait := 0, tPoll := 0, chan := default, regOffsets := [] },
    channels := [], cursor := ⟨0, 0⟩, notifyBusy := false, rxPending := ⟨false, false⟩, global := zeroGlobal,
    mem := [], regs := List.replicate 4 resetRegs,
    curBuf := .b0, held := [], outbox := [], arrivals := [], draw := ⟨0, true⟩, freeCount := 0, trace := [], log := [],
    ret := none }

/-- The state after reset. Reset is `ATTACH` (R300, R302), here of the configuration of 95_test_vectors.md (log 1); the
frames of the empty slots are the zero frame (log 3). -/
def State.reset : State :=
  { State.powerOn with
    attached := true
    cfg := Config.attachCfg
    channels := List.replicate Config.attachCfg.n (resetChan (List.replicate Config.attachCfg.k (emptySlot zeroFrame)))
    ret := some .ok }

end Sys2Proof.Machine
end

