-- ==== Sys2Proof/Machine/Ops.lean ====
section
/-! DEFINITION. The named operations over memory, buffers, channel contexts and the register surface; taking an
exception and the acknowledge that ends a notification (60_exceptions.md R276, R281). -/

namespace Sys2Proof.Machine

/-! ### Values per buffer -/

def Pair.get {α : Type} (p : Pair α) : Buf → α
  | .b0 => p.b0
  | .b1 => p.b1

def Pair.set {α : Type} (p : Pair α) (b : Buf) (v : α) : Pair α :=
  match b with
  | .b0 => { p with b0 := v }
  | .b1 => { p with b1 := v }

/-! ### DMA buffer memory (20_memory.md R61, R71) -/

/-- The whole DMA buffer space: byte `j` of buffer `b` is at `bufBase b + j` (log 5). -/
def memSize : Nat := 2 * Config.bufBytes

/-- The address of byte 0 of a buffer (log 5). -/
def bufBase (b : Buf) : Nat := b.num * Config.bufBytes

/-- What a byte that nothing has written reads as. DESIGN CHOICE (log 4). -/
def unlistedByte : Byte := 0

/-- The canonical form of memory: addresses strictly rising, inside the space, and no entry equal to what an unlisted
address reads as. -/
abbrev memWf (m : List Host.Cell) : Prop :=
  m.Pairwise (fun x y => x.1 < y.1) ∧ ∀ x ∈ m, x.1 < memSize ∧ x.2 ≠ unlistedByte

/-- One byte of memory. -/
def readByte : List Host.Cell → Nat → Byte
  | [], _ => unlistedByte
  | (a, v) :: t, x => if a = x then v else readByte t x

/-- Write one byte, keeping the canonical form. -/
def writeByte : List Host.Cell → Nat → Byte → List Host.Cell
  | [], x, v => if v = unlistedByte then [] else [(x, v)]
  | (a, w) :: t, x, v =>
    if x < a then (if v = unlistedByte then (a, w) :: t else (x, v) :: (a, w) :: t)
    else if x = a then (if v = unlistedByte then t else (x, v) :: t)
    else (a, w) :: writeByte t x v

/-- Write bytes at rising addresses from `x` on. -/
def writeBytes (m : List Host.Cell) (x : Nat) : List Byte → List Host.Cell
  | [] => m
  | v :: vs => writeBytes (writeByte m x v) (x + 1) vs

/-- The little-endian word at a byte address (R61). -/
def readWord (m : List Host.Cell) (x : Nat) : Word :=
  wordOfBytes (readByte m x) (readByte m (x + 1)) (readByte m (x + 2)) (readByte m (x + 3))

/-- `n` words from byte address `x` on. -/
def readWords (m : List Host.Cell) (x : Nat) : Nat → List Word
  | 0 => []
  | n + 1 => readWord m x :: readWords m (x + 4) n

/-- `MemRead(b, i)` (R13, R61). -/
def memRead (m : List Host.Cell) (b : Buf) (i : Nat) : Word := readWord m (bufBase b + 4 * i)

/-- The words of buffer `b` from word index `pos` to its end: what `DECODE(b, pos)` may read (R131). -/
def bufWordsFrom (m : List Host.Cell) (b : Buf) (pos : Nat) : List Word :=
  readWords m (bufBase b + 4 * pos) (Config.bufWords - pos)

/-! ### Work on one channel

An operation on channel `c` reads and writes `CH[c]`, `SLOT[c]` and its outputs only (10_state.md R20, 70 R312), so a
handler works on the channel's context and collects what it emits, logs and returns. -/

/-- What a handler reads besides the context: the configuration, the channel index, the draws (R15). -/
structure Ctx where
  cfg  : Cfg
  c    : Nat
  draw : Draw
deriving DecidableEq, Repr

/-- The work of one operation on one channel: the context, the outputs in emission order, the exceptions logged, the
result returned. -/
structure Work where
  ch  : Chan
  out : List Event
  log : List Exc
  ret : Option Result
deriving DecidableEq, Repr

/-- The start of an operation on a channel. -/
def Work.start (ch : Chan) : Work := { ch := ch, out := [], log := [], ret := none }

/-- `emit E` (R14). -/
def Work.emit (w : Work) (e : Event) : Work := { w with out := w.out ++ [e] }

/-- Writes to the context (R12). -/
def Work.upd (w : Work) (f : Chan → Chan) : Work := { w with ch := f w.ch }

/-- Writes to the counters (R50). -/
def Work.count (w : Work) (f : Counters → Counters) : Work := w.upd fun ch => { ch with cnt := f ch.cnt }

/-- `return v` (R14). -/
def Work.return (w : Work) (r : Result) : Work := { w with ret := some r }

/-- The words an output puts on the register surface (R46, R110, R111, R112, R118); `arm_dma` is the glue's (R113). -/
def Event.regWrites : Event → List RegWrite
  | .writeCommand c seq op => [.cmd c (encodeCmd seq op)]
  | .writeControl c => [.ctrl c eflushWord]
  | .setModeBits c mask value => [.mode c mask value]
  | .txFifo c ws => [.fifo c ws]
  | _ => []

/-- Outputs join the trace, and their register writes the outbox, in order (R81). -/
def State.emits (s : State) (es : List Event) : State :=
  { s with trace := s.trace ++ es, outbox := s.outbox ++ es.flatMap Event.regWrites }

/-- The context and the outputs of a finished operation on channel `c` become the state's. -/
def State.commit (s : State) (c : Nat) (w : Work) : State :=
  { s.emits w.out with channels := s.channels.set c w.ch, log := s.log ++ w.log }

/-- What a handler on channel `c` reads. -/
def State.ctx (s : State) (c : Nat) : Ctx := { cfg := s.cfg, c := c, draw := s.draw }

/-- Run a handler on channel `c`, if the channel exists (R20). -/
def State.onChan (s : State) (c : Nat) (f : Ctx → Work → Work) : State :=
  match s.channels[c]? with
  | some ch => s.commit c (f (s.ctx c) (Work.start ch))
  | none => s

/-- Run a host request on channel `c`: as `onChan`, and the result goes to the caller (R14). -/
def State.onRequest (s : State) (c : Nat) (f : Ctx → Work → Work) : State :=
  match s.channels[c]? with
  | some ch =>
    let w := f (s.ctx c) (Work.start ch)
    { s.commit c w with ret := w.ret }
  | none => s

/-! ### Taking an exception (60_exceptions.md R265, R276)

Nothing is saved and control goes nowhere: taking an exception increments the counter R265 names and records what R265
says. `log` goes on at the next statement; `raise` in the consumer ends the consumption; a refusal is returned. -/

/-- The exception codes (R265). -/
def Exc.code : Exc → Nat
  | .framingError _ _ => 1
  | .queueFull => 2
  | .timeout => 3
  | .allocationFailure _ => 4
  | .unknownPacketType _ _ => 5
  | .protocolViolation _ _ => 6
  | .malformedPacket _ _ _ => 7
  | .busy => 8
  | .invalidFrame => 9
  | .refused => 10

/-- The channel counter an exception increments (R265). -/
def Exc.countChan (x : Exc) (k : Counters) : Counters :=
  match x with
  | .allocationFailure _ => { k with rxDropped := k.rxDropped + 1 }
  | .unknownPacketType _ _ => { k with unknownPackets := k.unknownPackets + 1 }
  | .protocolViolation .invalidChannel _ => k
  | .protocolViolation _ _ => { k with protoViolations := k.protoViolations + 1 }
  | _ => k

/-- The global counter an exception increments (R265). -/
def Exc.countGlobal (x : Exc) (g : GlobalCounters) : GlobalCounters :=
  match x with
  | .framingError _ _ => { g with framingErrors := g.framingErrors + 1 }
  | .malformedPacket _ _ _ => { g with framingErrors := g.framingErrors + 1 }
  | .protocolViolation .invalidChannel _ => { g with invalidChannel := g.invalidChannel + 1 }
  | _ => g

/-- `log X` in a handler of a channel (R14, R276): the counter and the record; the handler goes on. -/
def Work.logExc (w : Work) (x : Exc) : Work :=
  { w.count x.countChan with log := w.log ++ [x] }

/-- An exception of the device (R265, R276): the global counter and the record. -/
def State.takeException (s : State) (x : Exc) : State :=
  { s with global := x.countGlobal s.global, log := s.log ++ [x] }

/-- A request handed back to its caller (R273, R276). -/
def State.returns (s : State) (r : Result) : State := { s with ret := some r }

/-! ### Consumption of a buffer (R160, R171, R280, R281) -/

/-- Entry of the notification handler for `RX_READY(b)` (R160, R280): the core owns the buffer, the cursor starts at 0. -/
def State.startConsume (s : State) (b : Buf) : State :=
  { s with notifyBusy := true, rxPending := s.rxPending.set b true, curBuf := b, cursor := s.cursor.set b 0 }

/-- The acknowledge that ends a notification (R281): the analogue of a return from exception (R279). -/
def State.ackNotification (s : State) : State := { s with notifyBusy := false }

/-- The end of a consumption by any of its exits (R161, R171): the cursor returns to 0, the buffer is re-armed exactly
once, and the notification is acknowledged. -/
def State.endConsume (s : State) : State :=
  let s := { s with cursor := s.cursor.set s.curBuf 0 }
  let s := s.emits [.armDma s.curBuf]
  { s with rxPending := s.rxPending.set s.curBuf false }.ackNotification

/-- `raise` in the consumer (R163, R170, R276): the exception is taken and the consumption ends. -/
def State.abortConsume (s : State) (x : Exc) : State := (s.takeException x).endConsume

/-- The cursor moves past a handled packet of declared size `n` (R41 (c)). -/
def State.advance (s : State) (n : Nat) : State :=
  { s with cursor := s.cursor.set s.curBuf (s.cursor.get s.curBuf + n) }

/-! ### The register surface (R46, R70, R112) -/

/-- A write arriving at the registers of channel `c`. -/
def State.updRegs (s : State) (c : Nat) (f : CtlRegs → CtlRegs) : State := { s with regs := s.regs.modify c f }

/-- `MODE <- (MODE and not mask) or (value and mask)` (R112). -/
def modeWrite (mode mask value : Word) : Word := (mode &&& ~~~mask) ||| (value &&& mask)

/-! ### Guards -/

/-- Every operation but `ATTACH` has `G.ATTACHED` = 1 as a precondition (U1; log 13). -/
def State.whenAttached (s : State) (k : Host.Outcome State Fault Refusal) : Host.Outcome State Fault Refusal :=
  if s.attached then k else .fault .notAttached

/-- An operation on channel `c` needs its context (R20; log 14). -/
def State.whenChan (s : State) (c : Nat) (k : Host.Outcome State Fault Refusal) : Host.Outcome State Fault Refusal :=
  if c < s.channels.length then k else .refused (.noSuchChannel c)

end Sys2Proof.Machine
end

