-- ==== Sys2Proof/Machine/Registers.lean ====
section
/-! DEFINITION. The outbound words (30_encoding.md R110-R112, R118): the write each puts into a register of the attached
controller. The rule that issues such a word (ISSUE_CMD, SEND_EOF, ...) stands in the operation that runs it. -/

namespace Sys2Proof.Machine

/-- A register write needs the registers of its channel (R46; log 14). -/
def State.writeReg (s : State) (c : Nat) (f : CtlRegs → CtlRegs) : Host.Outcome State Fault Refusal :=
  if c < s.regs.length then .next (s.updRegs c f) else .refused (.noSuchChannel c)

/-- `REQUEST_STATUS` (R110): the command register takes the command word. -/
def execRequestStatus (c : Nat) (seq : Byte) (s : State) : Host.Outcome State Fault Refusal :=
  s.writeReg c fun r => { r with cmd := encodeCmd seq .requestStatus }

/-- `ABORT_FLUSH_RESET` (R110): the command register takes the command word. -/
def execAbortFlushReset (c : Nat) (seq : Byte) (s : State) : Host.Outcome State Fault Refusal :=
  s.writeReg c fun r => { r with cmd := encodeCmd seq .abortFlushReset }

/-- `EFLUSH` (R111): the control register takes the end-of-flush word. -/
def execEflush (c : Nat) (s : State) : Host.Outcome State Fault Refusal :=
  s.writeReg c fun r => { r with ctrl := eflushWord }

/-- Clear `RM` (R112, R191). -/
def execModeClearRm (c : Nat) (s : State) : Host.Outcome State Fault Refusal :=
  s.writeReg c fun r => { r with mode := modeWrite r.mode maskRm 0 }

/-- Clear `EPEN` (R112, R249). -/
def execModeClearEpen (c : Nat) (s : State) : Host.Outcome State Fault Refusal :=
  s.writeReg c fun r => { r with mode := modeWrite r.mode maskEpen 0 }

/-- Set `EPEN` (R112, R254). -/
def execModeSetEpen (c : Nat) (s : State) : Host.Outcome State Fault Refusal :=
  s.writeReg c fun r => { r with mode := modeWrite r.mode maskEpen maskEpen }

/-- `TX_FRAME` (R118): the words of one frame go into the FIFO, after those already written. -/
def execTxFrame (c : Nat) (f : TxWords) (s : State) : Host.Outcome State Fault Refusal :=
  s.writeReg c fun r => { r with fifo := r.fifo ++ encodeTxWords f }

end Sys2Proof.Machine
end

