-- ==== Sys2Proof/Machine/Operands.lean ====
section
/-! DEFINITION. Operand computations the handlers share: configuration lookups, timestamp scaling, sequence
correlation, the echo-slot lookup and the admission tests. -/

namespace Sys2Proof.Machine

/-- `TX_MAX` = K + 1 (R9, D21). -/
def txMax (cfg : Cfg) : Nat := cfg.k + 1

/-- The configuration of channel `c` (R9). DESIGN CHOICE (log 30): a number above 3, which names no channel of a configuration
that `ATTACH` accepts, reads the record of manual restart, no FD and no one-shot. -/
def chanCfg (cfg : Cfg) (c : Nat) : ChanCfg :=
  match c with
  | 0 => cfg.chan.c0
  | 1 => cfg.chan.c1
  | 2 => cfg.chan.c2
  | 3 => cfg.chan.c3
  | _ => { restartMs := 0, fdCap := false, oneshotCap := false, oneshot := false }

/-- `CFG_OK(Cfg)` (R301). -/
def cfgOk (cfg : Cfg) : Bool :=
  1 ≤ cfg.n && cfg.n ≤ 4 && 1 ≤ cfg.k && cfg.k ≤ 17 && 1000000 ≤ cfg.coreClockHz && cfg.tWait != 0 && cfg.tPoll != 0
    && (List.range cfg.n).all fun c => !(chanCfg cfg c).oneshot || (chanCfg cfg c).oneshotCap

/-- `SCALE`: `ts_ns = (ts × 1000) div (CORE_CLOCK_HZ div 1 000 000)`, exact on naturals (R102, U9). -/
def scale (cfg : Cfg) (ts : Stamp) : Nat := ts.toNat * 1000 / (cfg.coreClockHz / 1000000)

/-- `m_cmd` (R182): the packet answers the last command of any kind. -/
def seqIsCmd (ch : Chan) (seq : Byte) : Bool := seq == ch.cmdSeq

/-- `m_flush` (R182): the packet answers the last flush command. -/
def seqIsFlush (ch : Chan) (seq : Byte) : Bool := seq == ch.flushSeq

/-- `SLOT[c][i].PRESENT` (R42); an index past the ring names no slot. -/
def slotPresent (ch : Chan) (i : Nat) : Bool := (ch.slots.getD i (emptySlot zeroFrame)).present

/-- `SLOT[c][i].LEN` (R42). -/
def slotLen (ch : Chan) (i : Nat) : Nat := (ch.slots.getD i (emptySlot zeroFrame)).len

/-- `SLOT[c][i].PRESENT <- 0` (R226, R227): the other fields of the slot stay (U7: no rule reads them). -/
def releaseSlot (i : Nat) (ch : Chan) : Chan :=
  { ch with slots := ch.slots.modify i fun sl => { sl with present := false } }

/-- Every `SLOT[c][i].PRESENT <- 0` (R197). -/
def releaseAll (ch : Chan) : Chan :=
  { ch with slots := ch.slots.map fun sl => { sl with present := false } }

/-- The ring is full for the admission, stop and resume tests (R220, R222, R228): the slot `ECHO_IDX` points at is
occupied, or the hardware count has reached the negotiated maximum. -/
def noHeadroom (cfg : Cfg) (ch : Chan) (hw : Byte) : Bool :=
  slotPresent ch ch.echoIdx || txMax cfg ≤ hw.toNat

/-- `ACCEPTING(c)` (R223). -/
def accepting (ch : Chan) : Bool := ch.txEnabled && !ch.txFull

/-- The lengths a frame may have (R101, R220). -/
def validLen (n : Nat) : Bool := (len2dlc n).isSome

/-- `VALID(c, f)` (R220). -/
def validFrame (cfg : Cfg) (c : Nat) (f : TxFrame) : Bool :=
  validLen f.len && (f.fdf || f.len ≤ 8) && (!f.fdf || (chanCfg cfg c).fdCap) && (!f.fdf || !f.rtr)
    && (f.ide || f.id.toNat < 2 ^ 11) && f.data.length == f.len

/-- `SLOT.LEN` of an accepted frame: payload bytes, none for a remote frame (R221). -/
def frameBytes (f : TxFrame) : Nat := if f.rtr then 0 else f.len

/-- `ENCODE_TX(frame, slot, oneshot)` (R118, R158). -/
def encodeTx (f : TxFrame) (slot : Nat) (oneshot : Bool) : List Word :=
  encodeTxWords
    { id := f.id, rtr := f.rtr, ide := f.ide, seq := BitVec.ofNat 8 slot, dlc := (len2dlc f.len).getD 0, esi := f.esi,
      brs := f.brs, fdf := f.fdf, sms := oneshot, data := f.data.take (frameBytes f) }

end Sys2Proof.Machine
end

