-- ==== Sys2Proof/Machine/Flags.lean ====
section
/-! DEFINITION. The pure part of the Error/Status Classifier (44_error_classifier.md R240-R243), the derived state
`FSM(c)` (10_state.md R27) and the numeric codes of the enumerations (30_encoding.md R120). -/

namespace Sys2Proof.Machine

/-- The status flags the classifier reads (R240). -/
structure ErrFlags where
  boff : Bool
  irm  : Bool
  eplr : Bool
  ewlr : Bool
deriving DecidableEq, Repr, Inhabited

/-- The bus state of counters and flags, by the first line of R241 that applies. -/
def classifyState (tx rx : Byte) (f : ErrFlags) : BusState :=
  if f.boff || f.irm || Config.thOff ≤ tx.toNat || Config.thOff ≤ rx.toNat then .busOff
  else if f.eplr || Config.thPass ≤ tx.toNat || Config.thPass ≤ rx.toNat then .errorPassive
  else if f.ewlr || Config.thWarn ≤ tx.toNat || Config.thWarn ≤ rx.toNat then .errorWarning
  else .errorActive

/-- The three results of `CLASSIFY` (R240). -/
structure Classified where
  state   : BusState
  txState : BusState
  rxState : BusState
deriving DecidableEq, Repr

/-- `CLASSIFY(tx_err, rx_err, flags)` (R240, R241, R242). -/
def classify (tx rx : Byte) (f : ErrFlags) : Classified :=
  let st := classifyState tx rx f
  { state := st
    txState := if rx.toNat ≤ tx.toNat then st else .errorActive
    rxState := if tx.toNat ≤ rx.toNat then st else .errorActive }

/-- The flags of an `ERROR` packet (R248). -/
def errorFlags (p : ErrorPkt) : ErrFlags := { boff := p.boff, irm := p.irm, eplr := p.eplr, ewlr := p.ewlr }

/-- The flags of a `STATUS` packet (R250). -/
def statusFlags (p : StatusPkt) : ErrFlags := { boff := p.boff, irm := p.irm, eplr := p.eplr, ewlr := p.ewlr }

/-- Union of error classes (R246, R248). -/
def ErrClasses.union (a b : ErrClasses) : ErrClasses :=
  { busError := a.busError || b.busError, crtl := a.crtl || b.crtl, cnt := a.cnt || b.cnt, busOff := a.busOff || b.busOff,
    restarted := a.restarted || b.restarted, lostArb := a.lostArb || b.lostArb, ack := a.ack || b.ack }

/-- The codes of `BusState` (R120); they are also the severity rank of R22, R243 on the four ranked states. -/
def BusState.code : BusState → Nat
  | .errorActive => 0
  | .errorWarning => 1
  | .errorPassive => 2
  | .busOff => 3
  | .stopped => 4

/-- The codes of `Opcode` (R120). -/
def opcodeCode : Opcode → Nat
  | .requestStatus => 1
  | .abortFlushReset => 2

/-- The codes of `Op` (R120). -/
def Op.code : Op → Nat
  | .none => 0
  | .buson => 1
  | .stop => 2

/-- The codes of `Stage` (R120). -/
def Stage.code : Stage → Nat
  | .waitFlush => 0
  | .waitStart => 1

/-- The codes of `Result` (R120). -/
def Result.code : Result → Nat
  | .ok => 0
  | .okSlot _ => 0
  | .queueFull => 2
  | .timeout => 3
  | .busy => 8
  | .invalidFrame => 9
  | .refused => 10

/-- The states of the source's state machine (R27). -/
inductive Fsm where
  | flushing | idleReset | stopped | busOff | active (s : BusState)
deriving DecidableEq, Repr

/-- `FSM(c)` (R27), a function of the context. -/
def fsm (ch : Chan) : Fsm :=
  if ch.op ≠ .none ∧ ch.stage = .waitFlush then .flushing
  else if ch.op = .buson ∧ ch.stage = .waitStart then .idleReset
  else match ch.busState with
    | .stopped => .stopped
    | .busOff => .busOff
    | s => .active s

end Sys2Proof.Machine
end

