-- ==== Sys2Proof/Machine/Fsm.lean ====
section
/-! DEFINITION. The Per-Channel State Machine (42_channel_fsm.md): commands, flush, bus-on, stop, timeouts, bus-off,
and the flow-control signals they share with the echo tracker (43_tx_echo.md R223). -/

namespace Sys2Proof.Machine

/-- `SET_TX(c, enabled, full)` (R223): the two bits, and the signal on an edge of `ACCEPTING`. -/
def setTx (x : Ctx) (enabled full : Bool) (w : Work) : Work :=
  let before := accepting w.ch
  let w := w.upd fun ch => { ch with txEnabled := enabled, txFull := full }
  let after := accepting w.ch
  if before && !after then w.emit (.txStop x.c)
  else if after && !before then w.emit (.txResume x.c)
  else w

/-- `ISSUE_CMD(c, opcode)` (R181): the counter is incremented before use. -/
def issueCmd (x : Ctx) (op : Opcode) (w : Work) : Work :=
  let w := w.upd fun ch => { ch with cmdSeq := ch.cmdSeq + 1 }
  w.emit (.writeCommand x.c w.ch.cmdSeq op)

/-- `START_FLUSH(c)` (R183): a no-op while a flush is outstanding. -/
def startFlush (x : Ctx) (w : Work) : Work :=
  if w.ch.flushPending then w
  else (issueCmd x .abortFlushReset w).upd fun ch =>
    { ch with flushSeq := ch.cmdSeq, flushPending := true, eofDeferred := false }

/-- `SEND_EOF(c)` (R186): a control write; `CMD_SEQ` is unchanged. -/
def sendEof (x : Ctx) (w : Work) : Work :=
  (w.emit (.writeControl x.c)).upd fun ch => { ch with eofDeferred := false }

/-- The bounded wait of a request (R184, R195): the caller is blocked until `op_done`. -/
def block (x : Ctx) (op : Op) (w : Work) : Work :=
  w.upd fun ch => { ch with op := op, stage := .waitFlush, waitCnt := x.cfg.tWait }

/-- `BUSON(c)` (R184, R185). -/
def requestBuson (x : Ctx) (w : Work) : Work :=
  if w.ch.op ≠ .none then w.return .busy
  else block x .buson (startFlush x (w.upd fun ch => { ch with pollCnt := 0 }))

/-- `STOP(c)` (R195, R185). -/
def requestStop (x : Ctx) (w : Work) : Work :=
  if w.ch.op ≠ .none then w.return .busy
  else block x .stop (startFlush x (setTx x false w.ch.txFull w))

/-- `FLUSH_ACKED_BUSON(c)` (R191): the wait is re-armed in full. -/
def flushAckedBuson (x : Ctx) (w : Work) : Work :=
  (w.emit (.setModeBits x.c maskRm 0)).upd fun ch =>
    { ch with rmShadow := false, stage := .waitStart, waitCnt := x.cfg.tWait }

/-- `on_bus_state_change` when the state was another one (R192, R197). -/
def announce (x : Ctx) (old new : BusState) (w : Work) : Work :=
  if old ≠ new then w.emit (.onBusStateChange x.c old new) else w

/-- Error generation is enabled again if it was off (R192). -/
def reenableErrGen (x : Ctx) (w : Work) : Work :=
  if w.ch.errGenEn then w
  else (w.emit (.setModeBits x.c maskEpen maskEpen)).upd fun ch => { ch with errGenEn := true }

/-- `START_DONE(c, p)` (R192). -/
def startDone (x : Ctx) (w : Work) : Work :=
  let old := w.ch.busState
  let w := w.upd fun ch =>
    { ch with busState := .errorActive, txErr := 0, rxErr := 0, errRepCnt := 0, cmdSeq := 0 }
  let w := reenableErrGen x w
  let w := w.upd fun ch => { ch with op := .none, waitCnt := 0 }
  let w := announce x old .errorActive w
  (setTx x true false w).emit (.opDone x.c .buson .ok)

/-- `STOP_DONE(c, result)` (R197): the echo ring is emptied, `ECHO_IDX` stays. -/
def stopDone (x : Ctx) (r : Result) (w : Work) : Work :=
  let old := w.ch.busState
  let w := w.upd fun ch =>
    { releaseAll ch with pollCnt := 0, busState := .stopped, txFull := false, op := .none, waitCnt := 0 }
  (announce x old .stopped w).emit (.opDone x.c .stop r)

/-- The PendingFlush is over (R190, R198, R199). -/
def clearFlush (w : Work) : Work :=
  w.upd fun ch => { ch with flushPending := false, eofDeferred := false }

/-- `HANDLE_EFLUSH_ACK(c, p)` (R190). -/
def handleEflushAck (seq : Byte) (x : Ctx) (w : Work) : Work :=
  if !w.ch.flushPending || !seqIsFlush w.ch seq then w.logExc (.protocolViolation .staleFlushAck x.c)
  else
    let w := clearFlush w
    match w.ch.op, w.ch.stage with
    | .buson, .waitFlush => flushAckedBuson x w
    | .stop, .waitFlush => stopDone x .ok w
    | _, _ => w

/-- `RETRIGGER(c)` (R188): the same PendingFlush with a new sequence; the wait is not re-armed. -/
def retrigger (x : Ctx) (w : Work) : Work :=
  (issueCmd x .abortFlushReset w).upd fun ch => { ch with flushSeq := ch.cmdSeq }

/-- `EOF_OR_DEFER(c)` (R189). -/
def eofOrDefer (x : Ctx) (w : Work) : Work :=
  if x.draw.hwCount = 0 then sendEof x w
  else w.upd fun ch => { ch with eofDeferred := true }

/-- `IGNORE_STATUS(c, p)` (R194): only the answer to a stale command is logged. -/
def ignoreStatus (p : StatusPkt) (x : Ctx) (w : Work) : Work :=
  if !p.aut && !seqIsCmd w.ch p.seq then w.logExc (.protocolViolation .staleSequence x.c) else w

/-- `WAIT_EXPIRE(c)` (R198 for a bus-on, R199 for a stop). In R198 the flush is given up only in `WAIT_FLUSH`; the deferred
end-of-flush is cleared in either stage, as D19 of 92_eei_decisions.md says (log 18). -/
def waitExpire (x : Ctx) (w : Work) : Work :=
  match w.ch.op with
  | .buson =>
    (w.upd fun ch =>
      { ch with flushPending := ch.flushPending && ch.stage != .waitFlush, eofDeferred := false, op := .none }).emit
      (.opDone x.c .buson .timeout)
  | .stop => stopDone x .timeout (clearFlush w)
  | .none => w

/-- `ENTER_BUS_OFF(c)` (R200): the flush is forced only under manual restart. -/
def enterBusOff (x : Ctx) (w : Work) : Work :=
  let w := setTx x false w.ch.txFull w
  if (chanCfg x.cfg x.c).restartMs = 0 then startFlush x w else w

end Sys2Proof.Machine
end

