-- ==== Sys2Proof/Machine/Classifier.lean ====
section
/-! DEFINITION. The two call sites of the Error/Status Classifier, its state change and the poll timer
(44_error_classifier.md R245-R256). -/

namespace Sys2Proof.Machine

/-- The counter of a change into a state (R246, R50). -/
def countChange (new : BusState) (k : Counters) : Counters :=
  match new with
  | .errorWarning => { k with cntWarning := k.cntWarning + 1 }
  | .errorPassive => { k with cntPassive := k.cntPassive + 1 }
  | .busOff => { k with cntBusOff := k.cntBusOff + 1 }
  | _ => k

/-- The restart event (R246, R251) happens on this transition of a channel under auto-restart. -/
def isRestart (x : Ctx) (old new : BusState) : Bool :=
  old == .busOff && new == .errorActive && (chanCfg x.cfg x.c).restartMs != 0

/-- The error classes a state change adds (R246). -/
def changeClasses (x : Ctx) (old new : BusState) : ErrClasses :=
  { crtl := true, busOff := new == .busOff, restarted := isRestart x old new }

/-- `CHANGE_STATE(c, new)` (R246); the classes it returns are `changeClasses`. -/
def changeState (x : Ctx) (new : BusState) (w : Work) : Work :=
  let old := w.ch.busState
  let w := w.upd fun ch => { ch with busState := new, cnt := countChange new ch.cnt }
  let w := w.emit (.onBusStateChange x.c old new)
  let w := if new = .busOff then enterBusOff x w else w
  if isRestart x old new then
    (w.count fun k => { k with restarts := k.restarts + 1 }).emit (.onRestart x.c)
  else w

/-- Send an error event, or count it as dropped when no buffer can be had (R248, R250, R230, R270). -/
def sendErr (x : Ctx) (e : ErrEvent) (w : Work) : Work :=
  if x.draw.allocOk then w.emit (.onBusError x.c e) else w.logExc (.allocationFailure x.c)

/-- `ERR_CAP_CHECK(c)` (R249). -/
def errCapCheck (x : Ctx) (w : Work) : Work :=
  if Config.errCap ≤ w.ch.errRepCnt.toNat && w.ch.errGenEn then
    (w.emit (.setModeBits x.c maskEpen 0)).upd fun ch => { ch with errGenEn := false }
  else w

/-- The counters an `ERROR` packet increments (R248, R50). -/
def countError (p : ErrorPkt) (k : Counters) : Counters :=
  let k := { k with busErrors := k.busErrors + 1 }
  if p.dirTx then { k with txErrors := k.txErrors + 1 } else { k with rxErrors := k.rxErrors + 1 }

/-- The error event of an `ERROR` packet (R248); without a state change both halves are `ERROR_ACTIVE`. -/
def errorEvent (x : Ctx) (ts : Stamp) (p : ErrorPkt) (old : BusState) : ErrEvent :=
  let r := classify p.txerr p.rxerr (errorFlags p)
  let base : ErrClasses := { busError := true, cnt := true }
  { classes := if r.state ≠ old then base.union (changeClasses x old r.state) else base
    txState := if r.state ≠ old then r.txState else .errorActive
    rxState := if r.state ≠ old then r.rxState else .errorActive
    txerr := p.txerr, rxerr := p.rxerr, tsNs := scale x.cfg ts }

/-- `HANDLE_ERROR(c, p)` (R248). -/
def handleError (ts : Stamp) (p : ErrorPkt) (x : Ctx) (w : Work) : Work :=
  if w.ch.busState = .stopped then w
  else
    let old := w.ch.busState
    let r := classify p.txerr p.rxerr (errorFlags p)
    let w := if r.state ≠ old then changeState x r.state w else w
    let w := w.upd fun ch =>
      { ch with errRepCnt := ch.errRepCnt + 1, cnt := countError p ch.cnt, txErr := p.txerr, rxErr := p.rxerr }
    let w := sendErr x (errorEvent x ts p old) w
    (errCapCheck x w).upd fun ch => { ch with pollCnt := x.cfg.tPoll }

/-- The error event of a solicited response that changes the state (R250). -/
def responseEvent (x : Ctx) (ts : Stamp) (p : StatusPkt) (old : BusState) : ErrEvent :=
  let r := classify p.txerr p.rxerr (statusFlags p)
  { classes := ErrClasses.union { cnt := true } (changeClasses x old r.state)
    txState := r.txState, rxState := r.rxState, txerr := p.txerr, rxerr := p.rxerr, tsNs := scale x.cfg ts }

/-- `STATUS_RESPONSE(c, p)` (R250). -/
def statusResponse (ts : Stamp) (p : StatusPkt) (x : Ctx) (w : Work) : Work :=
  if w.ch.busState = .stopped then w
  else
    let old := w.ch.busState
    let r := classify p.txerr p.rxerr (statusFlags p)
    let w := if r.state ≠ old then sendErr x (responseEvent x ts p old) (changeState x r.state w) else w
    let w := w.upd fun ch => { ch with txErr := p.txerr, rxErr := p.rxerr }
    if p.txerr ≠ 0 ∨ p.rxerr ≠ 0 ∨ w.ch.busState = .errorWarning ∨ w.ch.busState = .errorPassive then
      w.upd fun ch => { ch with pollCnt := x.cfg.tPoll }
    else w

/-- `POLL_EXPIRE(c)` (R254): postponed while a request is in progress. -/
def pollExpire (x : Ctx) (w : Work) : Work :=
  if w.ch.op ≠ .none then w.upd fun ch => { ch with pollCnt := x.cfg.tPoll }
  else if w.ch.busState = .stopped then w
  else
    let w := (w.emit (.setModeBits x.c maskEpen maskEpen)).upd fun ch => { ch with errGenEn := true }
    (issueCmd x .requestStatus w).upd fun ch => { ch with errRepCnt := 0 }

/-- The start condition of a bus-on (R187 branch S4, R192). -/
def isStart (ch : Chan) (p : StatusPkt) : Bool :=
  ch.op == .buson && ch.stage == .waitStart && !p.irm && !p.rmcd && !p.boff && seqIsCmd ch p.seq

/-- The re-trigger condition (R187 branch S1, R188). -/
def isRetrigger (ch : Chan) (p : StatusPkt) : Bool :=
  ch.flushPending && p.idet && p.irm && p.aut && seqIsFlush ch p.seq

/-- The end-of-flush condition (R187 branch S2, R189). -/
def isEndOfFlush (ch : Chan) (p : StatusPkt) : Bool := ch.flushPending && p.irm && p.rmcd

/-- `HANDLE_STATUS(c, p)` (R187): the first branch whose condition holds. -/
def handleStatus (ts : Stamp) (p : StatusPkt) (x : Ctx) (w : Work) : Work :=
  if isStart w.ch p then startDone x w
  else if isRetrigger w.ch p then retrigger x w
  else if isEndOfFlush w.ch p then eofOrDefer x w
  else if !p.aut && seqIsCmd w.ch p.seq then statusResponse ts p x w
  else ignoreStatus p x w

end Sys2Proof.Machine
end

