-- ==== Sys2Proof/Machine/Echo.lean ====
section
/-! DEFINITION. The TX Echo Tracker (43_tx_echo.md): submit, acknowledge, flow control. -/

namespace Sys2Proof.Machine

/-- `STOP_CHECK(c, hw_post)` (R222). -/
def stopCheck (x : Ctx) (hwPost : Byte) (w : Work) : Work :=
  if noHeadroom x.cfg w.ch hwPost then setTx x w.ch.txEnabled true w else w

/-- The slot an accepted frame occupies (R221). -/
def fillSlot (i : Nat) (f : TxFrame) (ch : Chan) : Chan :=
  { ch with slots := ch.slots.set i { present := true, len := frameBytes f, frame := f } }

/-- `ACCEPT(c, f, i, hw_post)` (R221) with `i` = `ECHO_IDX`. -/
def accept (x : Ctx) (f : TxFrame) (hwPost : Byte) (w : Work) : Work :=
  let i := w.ch.echoIdx
  let w := w.upd fun ch => { fillSlot i f ch with echoIdx := (i + 1) % x.cfg.k }
  let w := w.emit (.txFifo x.c (encodeTx f i (chanCfg x.cfg x.c).oneshot))
  (stopCheck x hwPost w).return (.okSlot i)

/-- `SUBMIT(c, f, hw_pre, hw_post)` (R220). -/
def requestSubmit (f : TxFrame) (hwPre hwPost : Byte) (x : Ctx) (w : Work) : Work :=
  if !validFrame x.cfg x.c f then w.return .invalidFrame
  else if !w.ch.txEnabled then w.return .queueFull
  else if noHeadroom x.cfg w.ch hwPre then w.return .queueFull
  else accept x f hwPost w

/-- `RESUME_CHECK(c)` (R228). -/
def resumeCheck (x : Ctx) (w : Work) : Work :=
  if w.ch.txFull && !noHeadroom x.cfg w.ch x.draw.hwCount then setTx x w.ch.txEnabled false w else w

/-- `RELEASE(c, i, p)` (R227). -/
def release (ts : Stamp) (p : AckPkt) (x : Ctx) (i : Nat) (w : Work) : Work :=
  let n := slotLen w.ch i
  let w := w.upd (releaseSlot i)
  let w := w.emit (.onTxComplete x.c i n (scale x.cfg ts) (!p.nack))
  let w := if p.nack then w else
    w.count fun k => { k with txPackets := k.txPackets + 1, txBytes := k.txBytes + BitVec.ofNat 64 n }
  resumeCheck x w

/-- `DEFERRED_EOF(c)` (R229). -/
def deferredEof (x : Ctx) (w : Work) : Work :=
  if w.ch.eofDeferred && w.ch.flushPending && x.draw.hwCount == 0 then sendEof x w else w

/-- The error event of a NACK (R230, R256). -/
def nackEvent (x : Ctx) (ts : Stamp) (p : AckPkt) : ErrEvent :=
  { classes := { busError := true, lostArb := p.abl, ack := !p.abl }
    txState := .errorActive, rxState := .errorActive, txerr := 0, rxerr := 0, tsNs := scale x.cfg ts }

/-- The counters a NACK increments (R230). -/
def countNack (p : AckPkt) (k : Counters) : Counters :=
  let k := { k with txErrors := k.txErrors + 1 }
  if p.abl then { k with arbLost := k.arbLost + 1 } else k

/-- `NACK_EVENT(c, p)` (R230). -/
def handleNack (ts : Stamp) (p : AckPkt) (x : Ctx) (w : Work) : Work :=
  if p.nack then sendErr x (nackEvent x ts p) (w.count (countNack p)) else w

/-- The slot part of `HANDLE_ACK` (R224, R225, R226). -/
def ackSlot (ts : Stamp) (p : AckPkt) (x : Ctx) (w : Work) : Work :=
  let i := p.seq.toNat
  if x.cfg.k ≤ i || !slotPresent w.ch i then w.logExc (.protocolViolation .unknownSlot x.c)
  else if p.flu then w.upd (releaseSlot i)
  else release ts p x i w

/-- `HANDLE_ACK(c, p)` (R224, R231). -/
def handleAck (ts : Stamp) (p : AckPkt) (x : Ctx) (w : Work) : Work :=
  if p.ct then w
  else deferredEof x (ackSlot ts p x (handleNack ts p x w))

end Sys2Proof.Machine
end

