-- ==== Sys2Proof/Machine/Requests.lean ====
section
/-! DEFINITION. The request port (30_encoding.md R122): attach and detach (70_reset_and_hazards.md), the host requests,
the tick and the notifications (60_exceptions.md). -/

namespace Sys2Proof.Machine

/-! ### Attach and detach -/

/-- The echo-slot ring a channel gets at attach (R300): empty slots whose `FRAME` is a free value (log 3), the `i`-th
from the free value `start + i`. -/
def attachSlots (k start : Nat) : List EchoSlot :=
  (List.range k).map fun i => emptySlot (Config.freeFrame (start + i))

/-- The contexts `ATTACH` creates (R300). -/
def attachChannels (cfg : Cfg) (start : Nat) : List Chan :=
  (List.range cfg.n).map fun c => resetChan (attachSlots cfg.k (start + c * cfg.k))

/-- Every piece of state of 10_state.md at its reset value (R300); nothing is emitted. -/
def State.attachWith (s : State) (cfg : Cfg) : State :=
  { s with
    attached := true, cfg := cfg, channels := attachChannels cfg s.freeCount, cursor := ⟨0, 0⟩, notifyBusy := false,
    rxPending := ⟨false, false⟩, global := zeroGlobal, curBuf := .b0, held := [],
    freeCount := s.freeCount + cfg.n * cfg.k, ret := some .ok }

/-- `ATTACH(Cfg)` (R300); refused while attached or when the configuration is not `CFG_OK` (R301). -/
def execAttach (cfg : Cfg) (s : State) : Host.Outcome State Fault Refusal :=
  if s.attached || !cfgOk cfg then .next (s.returns .refused) else .next (s.attachWith cfg)

/-- `DETACH` (R303): the contexts are destroyed; the rule gives no result (log 20). -/
def execDetach (s : State) : Host.Outcome State Fault Refusal :=
  s.whenAttached (.next { s with attached := false, channels := [], ret := none })

/-! ### Host requests -/

/-- `BUSON(c)` (R184). -/
def execBuson (c : Nat) (s : State) : Host.Outcome State Fault Refusal :=
  s.whenAttached (s.whenChan c (.next (s.onRequest c requestBuson)))

/-- `STOP(c)` (R195). -/
def execStop (c : Nat) (s : State) : Host.Outcome State Fault Refusal :=
  s.whenAttached (s.whenChan c (.next (s.onRequest c requestStop)))

/-- `SUBMIT(c, f, hw_pre, hw_post)` (R220). -/
def execSubmit (c : Nat) (f : TxFrame) (hwPre hwPost : Byte) (s : State) : Host.Outcome State Fault Refusal :=
  s.whenAttached (s.whenChan c (.next (s.onRequest c (requestSubmit f hwPre hwPost))))

/-! ### The tick -/

/-- The bounded-wait timer of one channel (R285). -/
def tickWait (x : Ctx) (w : Work) : Work :=
  if w.ch.waitCnt = 0 then w
  else
    let w := w.upd fun ch => { ch with waitCnt := ch.waitCnt - 1 }
    if w.ch.waitCnt = 0 then waitExpire x w else w

/-- The poll timer of one channel (R285). -/
def tickPoll (x : Ctx) (w : Work) : Work :=
  if w.ch.pollCnt = 0 then w
  else
    let w := w.upd fun ch => { ch with pollCnt := ch.pollCnt - 1 }
    if w.ch.pollCnt = 0 then pollExpire x w else w

/-- A tick's work on one channel (R285, R312): the wait timer before the poll timer. -/
def tickChan (x : Ctx) (w : Work) : Work := tickPoll x (tickWait x w)

/-- A tick's work on `n` channels from `c` on, in increasing order (R285). -/
def State.tickFrom (s : State) (c : Nat) : Nat → State
  | 0 => s
  | n + 1 => (s.onChan c tickChan).tickFrom (c + 1) n

/-- `TICK` (R285). -/
def execTick (s : State) : Host.Outcome State Fault Refusal :=
  s.whenAttached (.next (s.tickFrom 0 s.channels.length))

/-! ### Notifications (R280): held pending while one is handled -/

/-- A notification that arrives while one is being handled is held pending (R279, R280; log 16). -/
def State.hold (s : State) (i : Instr) : State := { s with held := s.held ++ [i] }

/-- The pending signals of buffer `b` are being served: none of them stays pending (R280; log 16). -/
def State.unhold (s : State) (b : Buf) : State := { s with held := s.held.filter fun i => i ≠ .rxReady b }

/-- `RX_READY(b)` (R160): the consumption of buffer `b` starts; while another notification is handled the buffer is
marked pending (R280). DESIGN CHOICE (log 16): R280 keeps one pending bit for each buffer and says nothing of a second
signal while the bit is 1. It adds nothing: while a notification is handled it changes no state, and while none is it
serves the pending signal, which is then pending no more; so a buffer is consumed once for each time the core owns it
(R76). -/
def execRxReady (b : Buf) (s : State) : Host.Outcome State Fault Refusal :=
  s.whenAttached (.next (
    if s.notifyBusy then
      if s.rxPending.get b then s else { s with rxPending := s.rxPending.set b true }.hold (.rxReady b)
    else (s.unhold b).startConsume b))

/-- `TX_STATUS(c)` (R283): acknowledged, no effect. -/
def execTxStatus (c : Nat) (s : State) : Host.Outcome State Fault Refusal :=
  s.whenAttached (s.whenChan c (.next (if s.notifyBusy then s.hold (.txStatus c) else s.ackNotification)))

/-- `DMA_OVERFLOW(b)` (R173): counted, acknowledged. -/
def execDmaOverflow (b : Buf) (s : State) : Host.Outcome State Fault Refusal :=
  s.whenAttached (.next (
    if s.notifyBusy then s.hold (.dmaOverflow b)
    else { s with global := { s.global with dmaOverflows := s.global.dmaOverflows + 1 } }.ackNotification))

/-- `DMA_UNDERFLOW(b)` (R173): counted, acknowledged. -/
def execDmaUnderflow (b : Buf) (s : State) : Host.Outcome State Fault Refusal :=
  s.whenAttached (.next (
    if s.notifyBusy then s.hold (.dmaUnderflow b)
    else { s with global := { s.global with dmaUnderflows := s.global.dmaUnderflows + 1 } }.ackNotification))

end Sys2Proof.Machine
end

