-- ==== Sys2Proof/Machine/Ring.lean ====
section
/-! DEFINITION. The DMA Ring Consumer and dispatcher (41_ring_consumer.md): the meaning of every ring packet and every
ring marker. -/

namespace Sys2Proof.Machine

/-! ### Handlers of this file -/

/-- What a received frame carries upward (R168). -/
def rxFrame (cfg : Cfg) (ts : Stamp) (p : DataPkt) : RxFrame :=
  { id := p.id, ide := p.ide, rtr := p.rtr, fdf := p.fdf, brs := p.brs, esi := p.esi, len := p.len, data := p.data,
    tsNs := scale cfg ts }

/-- `HANDLE_DATA(c, p)` (R168): delivered in every bus state, or dropped when no buffer can be had. -/
def handleData (ts : Stamp) (p : DataPkt) (x : Ctx) (w : Work) : Work :=
  if x.draw.allocOk then
    (w.emit (.onRxFrame x.c (rxFrame x.cfg ts p))).count fun k =>
      { k with rxPackets := k.rxPackets + 1, rxBytes := k.rxBytes + BitVec.ofNat 64 p.payLen }
  else w.logExc (.allocationFailure x.c)

/-- A known packet type without a handler (R169). -/
def handleUnexpected (_ : Ctx) (w : Work) : Work :=
  w.count fun k => { k with unexpectedPackets := k.unexpectedPackets + 1 }

/-- An unassigned packet type (R169, R271): logged and skipped. -/
def handleUnknown (typ : BitVec 4) (x : Ctx) (w : Work) : Work := w.logExc (.unknownPacketType x.c typ)

/-! ### Dispatch and the framing check -/

/-- `DISPATCH(p, s)` (R166): an invalid channel is logged and nothing runs (R167). -/
def State.dispatch (s : State) (ch : BitVec 3) (f : Ctx → Work → Work) : State :=
  if ch.toNat < s.channels.length then s.onChan ch.toNat f
  else s.takeException (.protocolViolation .invalidChannel ch.toNat)

/-- The cursor after a handled packet, or `FramingError` when the computed length differs from the declared one; the
packet's effects stay (R161, R170). -/
def State.framingCheck (s : State) (size len : Nat) : State :=
  if len ≠ size then s.abortConsume (.framingError s.curBuf (s.cursor.get s.curBuf)) else s.advance size

/-- An item of the ring is handled only while a buffer is consumed (R76, R280; logs 13, 17). -/
def State.whenConsuming (s : State) (k : State) : Host.Outcome State Fault Refusal :=
  s.whenAttached (if s.notifyBusy then .next k else .fault .noConsumption)

/-- One turn of `CONSUME` with a packet of computed length `len` (R161). -/
def State.packet (s : State) (h : Hdr) (len : Nat) (f : Ctx → Work → Work) : Host.Outcome State Fault Refusal :=
  s.whenConsuming ((s.dispatch h.ch f).framingCheck h.size len)

/-- `raise MalformedPacket` (R163, R267): treated as `FramingError`. -/
def State.malformed (s : State) (why : Malformed) : Host.Outcome State Fault Refusal :=
  s.whenConsuming (s.abortConsume (.malformedPacket s.curBuf (s.cursor.get s.curBuf) why))

/-- The consumer stops without error: the end marker (R162) or the buffer bound (R164). -/
def State.stopQuietly (s : State) : Host.Outcome State Fault Refusal := s.whenConsuming s.endConsume

/-! ### Packets with a handler -/

/-- `DATA` (R168). -/
def execData (h : Hdr) (p : DataPkt) (s : State) : Host.Outcome State Fault Refusal :=
  s.packet h p.words (handleData h.ts p)

/-- `ACK` (R224). -/
def execAck (h : Hdr) (p : AckPkt) (s : State) : Host.Outcome State Fault Refusal :=
  s.packet h 5 (handleAck h.ts p)

/-- `ERROR` (R248). -/
def execError (h : Hdr) (p : ErrorPkt) (s : State) : Host.Outcome State Fault Refusal :=
  s.packet h 5 (handleError h.ts p)

/-- `EFLUSH_ACK` (R190). -/
def execEflushAck (h : Hdr) (seq : Byte) (s : State) : Host.Outcome State Fault Refusal :=
  s.packet h 5 (handleEflushAck seq)

/-- `STATUS` (R187). -/
def execStatus (h : Hdr) (p : StatusPkt) (s : State) : Host.Outcome State Fault Refusal :=
  s.packet h 5 (handleStatus h.ts p)

/-! ### Packets without a handler (R169): their computed length is the declared one (R89) -/

/-- `TXRQ`. -/
def execTxrq (h : Hdr) (s : State) : Host.Outcome State Fault Refusal := s.packet h h.size handleUnexpected

/-- `EFRAME_ACK`. -/
def execEframeAck (h : Hdr) (s : State) : Host.Outcome State Fault Refusal := s.packet h h.size handleUnexpected

/-- `ACK_DATA`. -/
def execAckData (h : Hdr) (s : State) : Host.Outcome State Fault Refusal := s.packet h h.size handleUnexpected

/-- `BUS_LOAD`. -/
def execBusLoad (h : Hdr) (s : State) : Host.Outcome State Fault Refusal := s.packet h h.size handleUnexpected

/-- Unassigned `TYPE` 0x7. -/
def execUnknown7 (h : Hdr) (s : State) : Host.Outcome State Fault Refusal := s.packet h h.size (handleUnknown 7)

/-- Unassigned `TYPE` 0xA. -/
def execUnknownA (h : Hdr) (s : State) : Host.Outcome State Fault Refusal := s.packet h h.size (handleUnknown 10)

/-- Unassigned `TYPE` 0xB. -/
def execUnknownB (h : Hdr) (s : State) : Host.Outcome State Fault Refusal := s.packet h h.size (handleUnknown 11)

/-- Unassigned `TYPE` 0xC. -/
def execUnknownC (h : Hdr) (s : State) : Host.Outcome State Fault Refusal := s.packet h h.size (handleUnknown 12)

/-- Unassigned `TYPE` 0xD. -/
def execUnknownD (h : Hdr) (s : State) : Host.Outcome State Fault Refusal := s.packet h h.size (handleUnknown 13)

/-- Unassigned `TYPE` 0xE. -/
def execUnknownE (h : Hdr) (s : State) : Host.Outcome State Fault Refusal := s.packet h h.size (handleUnknown 14)

/-- Unassigned `TYPE` 0xF. -/
def execUnknownF (h : Hdr) (s : State) : Host.Outcome State Fault Refusal := s.packet h h.size (handleUnknown 15)

/-! ### Markers -/

/-- `END` (R162): the end of valid data for this fill, no error. -/
def execEndMark (s : State) : Host.Outcome State Fault Refusal := s.stopQuietly

/-- `SIZE` = 1 (R163). -/
def execUndersize1 (s : State) : Host.Outcome State Fault Refusal := s.malformed .undersize

/-- `SIZE` = 2 (R163). -/
def execUndersize2 (s : State) : Host.Outcome State Fault Refusal := s.malformed .undersize

/-- `SIZE` = 3 (R163). -/
def execUndersize3 (s : State) : Host.Outcome State Fault Refusal := s.malformed .undersize

/-- `SIZE` = 4 (R163). -/
def execUndersize4 (s : State) : Host.Outcome State Fault Refusal := s.malformed .undersize

end Sys2Proof.Machine
end

