-- ==== Sys2Proof/Machine/Dispatch.lean ====
section
/-! DEFINITION. exec: one arm per constructor of Instr, each one call of its meaning. -/

namespace Sys2Proof.Machine

/-- The meaning of every operation of spec/opcode_table.json. -/
def exec (i : Instr) (s : State) : Host.Outcome State Fault Refusal :=
  match i with
  | .data h p => Sys2Proof.Machine.execData h p s
  | .ack h p => Sys2Proof.Machine.execAck h p s
  | .txrq h _ => Sys2Proof.Machine.execTxrq h s
  | .error h p => Sys2Proof.Machine.execError h p s
  | .eflushAck h q => Sys2Proof.Machine.execEflushAck h q s
  | .eframeAck h _ => Sys2Proof.Machine.execEframeAck h s
  | .ackData h _ => Sys2Proof.Machine.execAckData h s
  | .unknown7 h _ => Sys2Proof.Machine.execUnknown7 h s
  | .status h p => Sys2Proof.Machine.execStatus h p s
  | .busLoad h _ => Sys2Proof.Machine.execBusLoad h s
  | .unknownA h _ => Sys2Proof.Machine.execUnknownA h s
  | .unknownB h _ => Sys2Proof.Machine.execUnknownB h s
  | .unknownC h _ => Sys2Proof.Machine.execUnknownC h s
  | .unknownD h _ => Sys2Proof.Machine.execUnknownD h s
  | .unknownE h _ => Sys2Proof.Machine.execUnknownE h s
  | .unknownF h _ => Sys2Proof.Machine.execUnknownF h s
  | .endMark => Sys2Proof.Machine.execEndMark s
  | .undersize1 => Sys2Proof.Machine.execUndersize1 s
  | .undersize2 => Sys2Proof.Machine.execUndersize2 s
  | .undersize3 => Sys2Proof.Machine.execUndersize3 s
  | .undersize4 => Sys2Proof.Machine.execUndersize4 s
  | .requestStatus c q => Sys2Proof.Machine.execRequestStatus c q s
  | .abortFlushReset c q => Sys2Proof.Machine.execAbortFlushReset c q s
  | .eflush c => Sys2Proof.Machine.execEflush c s
  | .modeClearRm c => Sys2Proof.Machine.execModeClearRm c s
  | .modeClearEpen c => Sys2Proof.Machine.execModeClearEpen c s
  | .modeSetEpen c => Sys2Proof.Machine.execModeSetEpen c s
  | .txFrame c f => Sys2Proof.Machine.execTxFrame c f s
  | .attach cfg => Sys2Proof.Machine.execAttach cfg s
  | .detach => Sys2Proof.Machine.execDetach s
  | .buson c => Sys2Proof.Machine.execBuson c s
  | .stop c => Sys2Proof.Machine.execStop c s
  | .submit c f pre post => Sys2Proof.Machine.execSubmit c f pre post s
  | .tick => Sys2Proof.Machine.execTick s
  | .rxReady b => Sys2Proof.Machine.execRxReady b s
  | .txStatus c => Sys2Proof.Machine.execTxStatus c s
  | .dmaOverflow b => Sys2Proof.Machine.execDmaOverflow b s
  | .dmaUnderflow b => Sys2Proof.Machine.execDmaUnderflow b s

end Sys2Proof.Machine
end

