-- ==== Sys2Proof/Machine/Fetch.lean ====
section
/-! DEFINITION. Which operation the machine performs next, and the environment's own actions: the order in which
emitted register writes, arriving requests, the running consumption and held notifications are served. -/

namespace Sys2Proof.Machine

/-- What a step does: perform an operation at a state, or something that is no operation of the table. -/
inductive NextOp where
  | run (i : Instr) (s : State)
  | own (o : Host.Outcome State Fault Refusal)

/-- Decode a fetched item; what encodes no operation is refused by name (log 15). -/
def runFetched (f : Fetched) (s : State) : NextOp :=
  match decode f with
  | .ok i => .run i s
  | .error e => .own (.refused (.undecodable e))

/-- `RX` turn (R161): the bound (R164), or `DECODE` at the cursor (R131); `Overrun` is `MalformedPacket` (R163). -/
def ringTurn (s : State) : NextOp :=
  let pos := s.cursor.get s.curBuf
  if Config.bufWords ≤ pos then .own s.stopQuietly
  else
    match decodeRing (bufWordsFrom s.mem s.curBuf pos) with
    | .ok i => .run i s
    | .error _ => .own (s.malformed .overrun)

/-- One of the pending sources, by a number that picks any of them (R284), and the others. -/
def takeHeld (pick : Nat) (held : List Instr) : Option (Instr × List Instr) :=
  held[pick % held.length]?.map fun i => (i, held.eraseIdx (pick % held.length))

/-- The notification handler's turn: the running consumption, else one of the notifications held pending (R280, R284),
else nothing. -/
def notifyTurn (pick : Nat) (s : State) : NextOp :=
  if s.notifyBusy then ringTurn s
  else
    match takeHeld pick s.held with
    | some (i, rest) => .run i { s with held := rest }
    | none => .own (.next s)

/-- The draws of an operation for which the environment has fixed none (R15; log 7). -/
def State.drawFree (s : State) : State :=
  { s with draw := Config.freeDraw s.freeCount, freeCount := s.freeCount + 1 }

/-- A write of the hardware into a buffer it owns (R76), inside its 4096 bytes (R55; log 21). While detached the core owns
no buffer: the write is taken whatever the pending bits read. DESIGN CHOICE (log 29): R76 gives ownership from attach on,
and R303 calls every field meaningless after a detach. -/
def hardwareFill (b : Buf) (off : Nat) (bytes : List Byte) (s : State) : Host.Outcome State Fault Refusal :=
  if Config.bufBytes < off + bytes.length then .fault .noSuchAddress
  else if s.attached && s.rxPending.get b then .refused (.ownedBuffer b)
  else .next { s with mem := writeBytes s.mem (bufBase b + off) bytes }

/-- The next thing the machine does (logs 6, 9): an emitted register write reaches the controller before anything else
(R81); then the environment's next input is served; with no input left the notification handler goes on with free
values for its draws and its choice among the pending sources. -/
def nextOp (s : State) : NextOp :=
  match s.outbox with
  | w :: rest => runFetched (.reg w) { s with outbox := rest }
  | [] =>
    match s.arrivals with
    | .request m :: rest => runFetched (.port m) { s with arrivals := rest }
    | .fill b off bytes :: rest => .own (hardwareFill b off bytes { s with arrivals := rest })
    | .turn d pick :: rest => notifyTurn pick { s with arrivals := rest, draw := d }
    | [] => notifyTurn (Config.freePick s.freeCount) (if s.notifyBusy || !s.held.isEmpty then s.drawFree else s)

/-- The bytes of a list of words in buffer order (R61). -/
def bytesOfWords (ws : List Word) : List Byte := ws.flatMap wordBytes

/-- Place one item where `nextOp` fetches: a ring item at word 0 of buffer 0 under consumption, followed by zeros up to
the longest packet (21 words), with the default draws of R125 (hw = 0, alloc = ok); a request as the only arrival; a
register write as the only pending one (log 2). -/
def placeFetched (f : Fetched) (s : State) : State :=
  match f with
  | .ring ws =>
    { (s.startConsume .b0) with
      mem := writeBytes s.mem (bufBase .b0) (bytesOfWords (ws ++ List.replicate (21 - ws.length) 0))
      outbox := [], arrivals := [.turn ⟨0, true⟩ 0] }
  | .port m => { s with outbox := [], arrivals := [.request m] }
  | .reg w => { s with outbox := [w] }

end Sys2Proof.Machine
end

