-- ==== Sys2Proof/Machine/Step.lean ====
section
/-! DEFINITION. One step of the machine: the next operation is fetched, decoded and executed. -/

namespace Sys2Proof.Machine

/-- One step. -/
def step (s : State) : Host.Outcome State Fault Refusal :=
  match nextOp s with
  | .run i s' => exec i s'
  | .own o => o

/-- `s` with the item of a table word stored where `step` fetches its next operation (logs 2, 11). -/
def State.withFetchWord (s : State) (nbits w : Nat) : State := placeFetched (tableFetched nbits w) s

end Sys2Proof.Machine
end

