-- ==== Sys2Proof/Safety.lean ====
section
/-! DEFINITION. What the claims call a legal state and a safe run: the invariants the spec states of every reachable
state (10_state.md R21, R26, R40, R42; 42_channel_fsm.md R202), and the inputs the core may be given (70_reset_and_hazards.md
R311). -/

namespace Sys2Proof.Machine

/-- The configurations `ATTACH` accepts (R301). -/
abbrev cfgLegal (cfg : Cfg) : Prop :=
  1 ≤ cfg.n ∧ cfg.n ≤ 4 ∧ 1 ≤ cfg.k ∧ cfg.k ≤ 17 ∧ 1000000 ≤ cfg.coreClockHz ∧ 1 ≤ cfg.tWait.toNat ∧ 1 ≤ cfg.tPoll.toNat
    ∧ ∀ c < cfg.n, (chanCfg cfg c).oneshot = true → (chanCfg cfg c).oneshotCap = true

/-- The invariant of R26 on a channel's request, stage and wait timer. -/
abbrev waitInv (ch : Chan) : Prop :=
  (ch.op = .none ↔ ch.waitCnt = 0) ∧ (ch.op = .stop → ch.stage = .waitFlush)
    ∧ (ch.op ≠ .none → ch.stage = .waitFlush → ch.flushPending = true)

/-- R202 (ii), (iv), (v), (vi). -/
abbrev flowInv (ch : Chan) : Prop :=
  (ch.flushPending = false → ch.eofDeferred = false) ∧ (ch.busState = .stopped → ch.txEnabled = false)
    ∧ (ch.busState = .busOff → ch.txEnabled = false) ∧ (ch.op = .stop → ch.txEnabled = false)

/-- The echo ring has `K` slots and `ECHO_IDX` points at one of them (R21, R42). -/
abbrev ringInv (cfg : Cfg) (ch : Chan) : Prop := ch.slots.length = cfg.k ∧ ch.echoIdx < cfg.k

/-- A legal channel context under a configuration. -/
abbrev chanInv (cfg : Cfg) (ch : Chan) : Prop := waitInv ch ∧ flowInv ch ∧ ringInv cfg ch

/-- While attached, the configuration is legal and the `N` contexts are legal (R20, R301). -/
abbrev channelsInv (s : State) : Prop :=
  s.attached = true → cfgLegal s.cfg ∧ s.channels.length = s.cfg.n ∧ ∀ ch ∈ s.channels, chanInv s.cfg ch

/-- The operations of the notification context (R282). -/
def isNotification : Instr → Bool
  | .rxReady _ | .txStatus _ | .dmaOverflow _ | .dmaUnderflow _ => true
  | _ => false

/-- The other buffer. -/
def otherBuf : Buf → Buf
  | .b0 => .b1
  | .b1 => .b0

/-- R40: a cursor is at most 1024, and 0 while its buffer is not being consumed. -/
abbrev cursorInv (s : State) : Prop :=
  s.cursor.get s.curBuf ≤ 1024 ∧ s.cursor.get (otherBuf s.curBuf) = 0
    ∧ (s.notifyBusy = false → s.cursor.get s.curBuf = 0) ∧ ∀ i ∈ s.held, isNotification i = true

/-- R76, R280: `G.RX_PENDING[b]` is 1 exactly while buffer `b` is being consumed or its `RX_READY` is held pending, and
the two do not come together nor twice. -/
abbrev pendingInv (s : State) : Prop :=
  ∀ b : Buf, s.held.count (.rxReady b) + (s.notifyBusy && s.curBuf == b).toNat = (s.rxPending.get b).toNat

/-- The channel of a register write. -/
def regWriteChan : RegWrite → Nat
  | .cmd c _ | .ctrl c _ | .mode c _ _ | .fifo c _ => c

/-- A register write that is one of the seven outbound words, on a channel the device can have. -/
abbrev deliverable (w : RegWrite) : Prop := (decode (.reg w)).toOption.isSome = true ∧ regWriteChan w < 4

/-- Every pending register write can be performed (R46, R81). -/
abbrev outboxInv (s : State) : Prop := s.regs.length = 4 ∧ ∀ w ∈ s.outbox, deliverable w

/-- The channel an operation of the request port names is one of `n` (R20). -/
def namesChannel (n : Nat) : Instr → Bool
  | .buson c | .stop c | .submit c _ _ _ | .txStatus c => c < n
  | _ => true

/-- A state in which the core can go on: attached, legal, with performable writes and legal held notifications. -/
abbrev runInv (s : State) : Prop :=
  s.attached = true ∧ channelsInv s ∧ outboxInv s
    ∧ ∀ i ∈ s.held, isNotification i = true ∧ namesChannel s.channels.length i = true

/-- An input the environment may give (R20, R55, R76, R122). -/
def inputLegal (s : State) : Arrival → Bool
  | .request m =>
    match decode (.port m) with
    | .ok i => namesChannel s.channels.length i
    | .error _ => false
  | .fill b off bytes => off + bytes.length ≤ 4096 && !s.rxPending.get b
  | .turn _ _ => true

/-! ### The words statements are made of -/

/-- `s` after an operation on channel `c` that leaves the context `ch`, emits `evs` in that order and logs `excs`:
every other field of the state is as before. The register writes among `evs` are on their way to the controller
(R81). -/
def State.after (s : State) (c : Nat) (ch : Chan) (evs : List Event) (excs : List Exc) : State :=
  { s with
    channels := s.channels.set c ch
    trace := s.trace ++ evs
    outbox := s.outbox ++ evs.flatMap Event.regWrites
    log := s.log ++ excs }

/-- `s` with the cursor of the buffer under consumption moved past a handled packet of `n` words (R41 (c)). -/
def State.pastPacket (s : State) (n : Nat) : State :=
  { s with cursor := s.cursor.set s.curBuf (s.cursor.get s.curBuf + n) }

/-- `s` after the end of its consumption by any exit (R171, R281): re-armed once, cursor 0, acknowledged. -/
def State.rearmed (s : State) : State :=
  { s with
    cursor := s.cursor.set s.curBuf 0
    rxPending := s.rxPending.set s.curBuf false
    notifyBusy := false
    trace := s.trace ++ [.armDma s.curBuf] }

/-- The notification handler's turn has come, and `s'` is the state in which it goes on: no register write is pending,
and the next input is a turn, which brings the draws, or there is no input left, and the draws are free values (log 7). -/
abbrev handlerTurn (s s' : State) : Prop :=
  s.outbox = [] ∧
    ((∃ (d : Draw) (k : Nat) (rest : List Arrival), s.arrivals = .turn d k :: rest ∧
        s' = { s with arrivals := rest, draw := d }) ∨
      (s.arrivals = [] ∧ s' = { s with draw := Config.freeDraw s.freeCount, freeCount := s.freeCount + 1 }))

/-- A packet of computed length `len` for the existing channel with context `ch` is at the head of the consumption, and
its declared size is right. -/
abbrev receives (s : State) (h : Hdr) (len : Nat) (ch : Chan) : Prop :=
  s.attached = true ∧ s.notifyBusy = true ∧ s.channels[h.ch.toNat]? = some ch ∧ h.size = len

/-- A host request on the existing channel `c` with context `ch` can be taken. -/
abbrev serves (s : State) (c : Nat) (ch : Chan) : Prop := s.attached = true ∧ s.channels[c]? = some ch

/-- The header of a ring packet; none for the other operations. -/
def ringHdr : Instr → Option Hdr
  | .data h _ | .ack h _ | .txrq h _ | .error h _ | .eflushAck h _ | .eframeAck h _ | .ackData h _ | .unknown7 h _
  | .status h _ | .busLoad h _ | .unknownA h _ | .unknownB h _ | .unknownC h _ | .unknownD h _ | .unknownE h _
  | .unknownF h _ => some h
  | _ => none

/-- The computed length of a ring packet (R89). -/
def ringLen : Instr → Nat
  | .data _ p => p.words
  | .ack _ _ | .error _ _ | .eflushAck _ _ | .status _ _ => 5
  | i => ((ringHdr i).map Hdr.size).getD 0

/-- The same packet with another declared size. -/
def withSize (n : Nat) : Instr → Instr
  | .data h p => .data { h with size := n } p
  | .ack h p => .ack { h with size := n } p
  | .txrq h p => .txrq { h with size := n } p
  | .error h p => .error { h with size := n } p
  | .eflushAck h q => .eflushAck { h with size := n } q
  | .eframeAck h p => .eframeAck { h with size := n } p
  | .ackData h p => .ackData { h with size := n } p
  | .unknown7 h p => .unknown7 { h with size := n } p
  | .status h p => .status { h with size := n } p
  | .busLoad h p => .busLoad { h with size := n } p
  | .unknownA h p => .unknownA { h with size := n } p
  | .unknownB h p => .unknownB { h with size := n } p
  | .unknownC h p => .unknownC { h with size := n } p
  | .unknownD h p => .unknownD { h with size := n } p
  | .unknownE h p => .unknownE { h with size := n } p
  | .unknownF h p => .unknownF { h with size := n } p
  | i => i

/-- The words of a packet with another size word. -/
def declaredAs (n : Nat) (ws : List Word) : List Word := BitVec.ofNat 32 n :: ws.tail

/-- The bits of `word0` and `word1` that the tables of R92-R96 leave reserved; none in an opaque packet (R97). -/
def reservedMasks : Instr → Word × Word
  | .data _ _ => (0x80000000, 0x01FF10FF)
  | .ack _ _ => (0xFFFFF000, 0x01FFFFFF)
  | .error _ _ => (0xFFDE0000, 0x007FFFFE)
  | .eflushAck _ _ => (0xFFFFFFFF, 0x01FFFF00)
  | .status _ _ => (0xFF8E0000, 0x005FFF00)
  | _ => (0, 0)

/-- The bytes of the words `ws` of a `DATA` packet after its payload (R63); none in the other packets. -/
def paddingBytes (ws : List Word) : Instr → List Byte
  | .data _ p => (bytesOfWords (ws.drop 5)).drop p.payLen
  | _ => []

/-- `FSM(c)` of a channel with no request in progress: a function of `BUS_STATE` (R27). -/
def fsmOfBus : BusState → Fsm
  | .stopped => .stopped
  | .busOff => .busOff
  | b => .active b

/-- The frames `SUBMIT` takes on channel `c` (R220 `VALID`). -/
abbrev submittable (cfg : Cfg) (c : Nat) (f : TxFrame) : Prop :=
  f.len ∈ [0, 1, 2, 3, 4, 5, 6, 7, 8, 12, 16, 20, 24, 32, 48, 64] ∧ (f.fdf = true ∨ f.len ≤ 8)
    ∧ (f.fdf = true → (chanCfg cfg c).fdCap = true) ∧ (f.fdf = true → f.rtr = false)
    ∧ (f.ide = true ∨ f.id.toNat < 2 ^ 11) ∧ f.data.length = f.len

/-- The one channel an operation of the core acts on (R20): that of a packet or of a host request. -/
def actsOn (i : Instr) : Option Nat :=
  match i with
  | .buson c | .stop c | .submit c _ _ _ | .txStatus c => some c
  | _ => (ringHdr i).map fun h => h.ch.toNat

/-- The seven outbound words arrive at the controller; every other operation is the core's. -/
def isOutbound : Instr → Bool
  | .requestStatus _ _ | .abortFlushReset _ _ | .eflush _ | .modeClearRm _ | .modeClearEpen _ | .modeSetEpen _
  | .txFrame _ _ => true
  | _ => false

/-- A re-arm of a buffer among the outputs. -/
def isArm : Event → Bool
  | .armDma _ => true
  | _ => false

/-- A command of channel `c` among the outputs. -/
def isCommand (c : Nat) : Event → Bool
  | .writeCommand d _ _ => d == c
  | _ => false

end Sys2Proof.Machine
end

