-- ==== Sys2Proof/Certificates/Slice0/Obligations.lean ====
section
/-! DEFINITION. The statements about the model. The words they are made of (`after`, `pastPacket`, `rearmed`, `receives`,
`serves`, the invariants) stand in Sys2Proof/Safety.lean. Each docstring names the rules it formalises. -/

section

open Sys2Proof Sys2Proof.Machine

/-! ### The step and the decoder -/

/-- What the machine performs next is decoded and executed: an emitted register write first (R81), then the
environment's next request, or on the handler's turn the item at the cursor (R131, R161), or one of the notifications
held pending, whichever the turn picks (R280, R284). The order of the streams is the model's (logs 6, 9, 16), and so are
the free draws and the free pick at the end of the inputs (logs 7, 16). -/
def Obligations.StepRunsTheDecodedOperation : Prop :=
  (∀ (s : State) (w : RegWrite) (rest : List RegWrite) (i : Instr),
      s.outbox = w :: rest → decode (.reg w) = .ok i → step s = exec i { s with outbox := rest }) ∧
  (∀ (s : State) (m : PortMsg) (rest : List Arrival) (i : Instr),
      s.outbox = [] → s.arrivals = .request m :: rest → decode (.port m) = .ok i →
      step s = exec i { s with arrivals := rest }) ∧
  (∀ (s s' : State) (i : Instr),
      handlerTurn s s' → s.notifyBusy = true → s.cursor.get s.curBuf < 1024 →
      decode (.ring (bufWordsFrom s.mem s.curBuf (s.cursor.get s.curBuf))) = .ok i → step s = exec i s') ∧
  (∀ (s : State) (d : Draw) (k : Nat) (rest : List Arrival) (i : Instr),
      s.outbox = [] → s.arrivals = .turn d k :: rest → s.notifyBusy = false →
      s.held[k % s.held.length]? = some i →
      step s = exec i { s with arrivals := rest, draw := d, held := s.held.eraseIdx (k % s.held.length) }) ∧
  (∀ (s : State) (i : Instr),
      s.outbox = [] → s.arrivals = [] → s.notifyBusy = false →
      s.held[Config.freePick s.freeCount % s.held.length]? = some i →
      step s = exec i { s with
        draw := Config.freeDraw s.freeCount
        freeCount := s.freeCount + 1
        held := s.held.eraseIdx (Config.freePick s.freeCount % s.held.length) })

/-- The words the spec writes out in R131, R141-R145, R152 and R158 decode to the operations it says they are. -/
def Obligations.SampleWordsDecodeAsTheSpecSays : Prop :=
  decode (.ring [5, 0, 0x10000000, 7, 0]) = .ok (.ack ⟨5, 0, 7⟩ ⟨0, false, false, false, false⟩) ∧
  decode (.ring [7, 0x00000123, 0x00000800, 0x10, 0, 0x44332211, 0x88776655]) =
    .ok (.data ⟨7, 0, 0x10⟩
      ⟨0x123, false, false, 8, false, false, false, [0x11, 0x22, 0x33, 0x44, 0x55, 0x66, 0x77, 0x88]⟩) ∧
  decode (.ring [5, 0x00000903, 0x10000000, 0, 0]) = .ok (.ack ⟨5, 0, 0⟩ ⟨3, true, false, false, true⟩) ∧
  decode (.ring [5, 0x00600000, 0x80200001, 0, 0]) =
    .ok (.status ⟨5, 0, 0⟩ ⟨1, 0, 0, false, false, true, true, true, false, false⟩) ∧
  decode (.ring [5, 0x00000A60, 0x30000001, 0, 0]) =
    .ok (.error ⟨5, 0, 0⟩ ⟨96, 10, false, false, false, false, true⟩) ∧
  decode (.ring [5, 0, 0x42000005, 0, 0]) = .ok (.eflushAck ⟨5, 1, 0⟩ 5) ∧
  decode (.reg (.cmd 0 0x00010002)) = .ok (.abortFlushReset 0 1)

/-- Every well-formed operation decodes from its own encoding, whatever words follow it in the buffer (R159 for the
packets; R110-R112, R118, R122 for the others). A classic `DATA` packet may have any `DLC` (log 31). -/
def Obligations.EncodedOperationDecodesBack : Prop :=
  ∀ (i : Instr) (rest : List Word), i.wellFormed = true → decode ((encode i).followedBy rest) = .ok i

/-- R159: a packet written anywhere in a buffer where it fits is read back by `DECODE` at that word index; a
classic `DATA` packet may have any `DLC` (log 31). -/
def Obligations.PacketRoundTripInBuffer : Prop :=
  ∀ (m : List Host.Cell) (b : Buf) (pos : Nat) (i : Instr) (ws : List Word),
    memWf m → i.wellFormed = true → encode i = .ring ws → pos + ws.length ≤ 1024 →
      decodeRing (bufWordsFrom (writeBytes m (bufBase b + 4 * pos) (bytesOfWords ws)) b pos) = .ok i

/-- R105: two ring packets of the same `TYPE` that agree on the bits their table (R92-R96) lists decode alike, and the
encoder writes every other bit as 0. Each row below is a `TYPE` code with the listed bits of `word0` and `word1`. -/
def Obligations.ReservedBitsIgnoredAndWrittenZero : Prop :=
  ∀ row ∈ ([(0, 0x7FFFFFFF, 0xFE00EF00), (1, 0x00000FFF, 0xFE000000), (3, 0x0021FFFF, 0xFF800001),
      (4, 0x00000000, 0xFE0000FF), (8, 0x0071FFFF, 0xFFA000FF)] : List (BitVec 4 × Word × Word)),
    (∀ (sz a b a' b' : Word) (rest : List Word),
      field b 28 4 = row.1 → a &&& row.2.1 = a' &&& row.2.1 → b &&& row.2.2 = b' &&& row.2.2 →
      decodeRing (sz :: a :: b :: rest) = decodeRing (sz :: a' :: b' :: rest)) ∧
    (∀ (i : Instr) (sz a b : Word) (rest : List Word),
      encode i = .ring (sz :: a :: b :: rest) → field b 28 4 = row.1 →
      a &&& ~~~row.2.1 = 0 ∧ b &&& ~~~row.2.2 = 0)

/-- R101: `LEN2DLC(n)` is the unique code whose FD length is `n`, defined on the sixteen listed lengths only; on the
classic lengths it is `n` itself. -/
def Obligations.LengthToCodeInvertsTheTable : Prop :=
  (∀ (n : Nat) (d : BitVec 4), len2dlc n = some d ↔ dlc2lenFd d = n) ∧
  (∀ n : Nat, (len2dlc n).isSome = true ↔ n ∈ [0, 1, 2, 3, 4, 5, 6, 7, 8, 12, 16, 20, 24, 32, 48, 64]) ∧
  (∀ n ≤ 8, len2dlc n = some (BitVec.ofNat 4 n))

/-- R118: the words written to the FIFO for a frame of a valid length in slot `i`, bit by bit. -/
def Obligations.TransmitFrameWords : Prop :=
  ∀ (f : TxFrame) (i : Nat) (oneshot : Bool) (dlc : BitVec 4), len2dlc f.len = some dlc → i < 256 →
    f.data.length = f.len →
    ∃ t0 t1 : Word, encodeTx f i oneshot = t0 :: t1 :: packBytes (if f.rtr then [] else f.data) ∧
      t0.toNat = f.id.toNat + 2 ^ 29 * f.rtr.toNat + 2 ^ 30 * f.ide.toNat ∧
      t1.toNat = i + 2 ^ 8 * dlc.toNat + 2 ^ 13 * f.esi.toNat + 2 ^ 14 * f.brs.toNat + 2 ^ 15 * f.fdf.toNat
        + 2 ^ 16 * oneshot.toNat + 2 ^ 31 ∧
      (encodeTx f i oneshot).length = 2 + ((if f.rtr then 0 else f.len) + 3) / 4

/-! ### Memory -/

/-- R61: a word of a buffer is assembled little-endian from its four bytes. -/
def Obligations.BufferWordsAreLittleEndian : Prop :=
  ∀ (m : List Host.Cell) (b : Buf) (i : Nat),
    (memRead m b i).toNat =
      (readByte m (bufBase b + 4 * i)).toNat + 2 ^ 8 * (readByte m (bufBase b + (4 * i + 1))).toNat
        + 2 ^ 16 * (readByte m (bufBase b + (4 * i + 2))).toNat + 2 ^ 24 * (readByte m (bufBase b + (4 * i + 3))).toNat

/-- A write of the hardware into a buffer it owns (R76): its bytes are there afterwards, every other byte and every
other field is as before, and the buffers stay in canonical form. That a detached core owns no buffer is the model's
(log 29). -/
def Obligations.HardwareFillWritesItsBytesOnly : Prop :=
  ∀ (s : State) (b : Buf) (off : Nat) (bytes : List Byte) (rest : List Arrival),
    s.outbox = [] → s.arrivals = .fill b off bytes :: rest → memWf s.mem → off + bytes.length ≤ 4096 →
    (s.attached = true → s.rxPending.get b = false) →
    ∃ m : List Host.Cell, step s = .next { s with arrivals := rest, mem := m } ∧ memWf m ∧
      (∀ j (h : j < bytes.length), readByte m (bufBase b + off + j) = bytes[j]) ∧
      ∀ a, a < bufBase b + off ∨ bufBase b + off + bytes.length ≤ a → readByte m a = readByte s.mem a

/-- R13: no operation of the core writes a DMA buffer. -/
def Obligations.CoreNeverWritesABuffer : Prop :=
  ∀ (i : Instr) (s t : State), exec i s = .next t → t.mem = s.mem

/-- Every step keeps the memory in its canonical form. -/
def Obligations.MemoryStaysCanonical : Prop :=
  ∀ s t : State, memWf s.mem → step s = .next t → memWf t.mem

/-! ### Reset, attach, detach -/

/-- The state after reset holds the values R300 gives (of the attach that log 1 names). -/
def Obligations.ResetHoldsTheStatedValues : Prop :=
  State.reset.attached = true ∧ State.reset.channels.length = State.reset.cfg.n ∧
  State.reset.cursor = ⟨0, 0⟩ ∧ State.reset.notifyBusy = false ∧ State.reset.rxPending = ⟨false, false⟩ ∧
  State.reset.global = ⟨0, 0, 0, 0⟩ ∧
  ∀ ch ∈ State.reset.channels,
    ch.busState = .stopped ∧ ch.cmdSeq = 0 ∧ ch.txErr = 0 ∧ ch.rxErr = 0 ∧ ch.flushPending = false ∧
    ch.flushSeq = 0 ∧ ch.eofDeferred = false ∧ ch.op = .none ∧ ch.stage = .waitFlush ∧ ch.waitCnt = 0 ∧
    ch.pollCnt = 0 ∧ ch.errRepCnt = 0 ∧ ch.errGenEn = true ∧ ch.rmShadow = true ∧ ch.txEnabled = false ∧
    ch.txFull = false ∧ ch.echoIdx = 0 ∧ ch.slots.length = State.reset.cfg.k ∧
    (∀ sl ∈ ch.slots, sl.present = false ∧ sl.len = 0) ∧ ch.cnt = zeroCounters

/-- The state after reset satisfies every invariant of this file. That reset is attached, and with which configuration, is
the model's choice (log 1), and so are the empty memory list (log 4), the fresh registers of the controller (log 8) and
the empty inputs and outputs (logs 6, 9, 16). -/
def Obligations.ResetIsLegal : Prop :=
  memWf State.reset.mem ∧ channelsInv State.reset ∧ cursorInv State.reset ∧ pendingInv State.reset ∧ runInv State.reset

/-- R300, R301: an accepted `ATTACH` leaves every piece of state at its reset value, emits nothing and returns `OK`; it is
refused, and changes nothing, while attached or outside the limits of `CFG_OK`. `FRAME` of the empty slots is whatever it
is; the buffer number, the held notifications and the count of free values are the model's own fields, and nothing is said
of their values. -/
def Obligations.AttachResetsOrIsRefused : Prop :=
  (∀ (s : State) (cfg : Cfg), s.attached = true ∨ ¬ cfgLegal cfg →
    exec (.attach cfg) s = .next { s with ret := some .refused }) ∧
  (∀ (s : State) (cfg : Cfg), s.attached = false → cfgLegal cfg →
    ∃ (chs : List Chan) (b : Buf) (held : List Instr) (n : Nat),
      exec (.attach cfg) s = .next { s with
        attached := true
        cfg := cfg
        channels := chs
        cursor := ⟨0, 0⟩
        notifyBusy := false
        rxPending := ⟨false, false⟩
        global := ⟨0, 0, 0, 0⟩
        curBuf := b
        held := held
        freeCount := n
        ret := some .ok } ∧
      chs.length = cfg.n ∧
      ∀ ch ∈ chs, ∃ slots : List EchoSlot, slots.length = cfg.k ∧
        (∀ sl ∈ slots, sl.present = false ∧ sl.len = 0) ∧
        ch = { busState := .stopped, cmdSeq := 0, txErr := 0, rxErr := 0, flushPending := false, flushSeq := 0, op := .none, stage := .waitFlush, waitCnt := 0, pollCnt := 0, errRepCnt := 0, errGenEn := true, rmShadow := true, txEnabled := false, txFull := false, eofDeferred := false, echoIdx := 0, slots := slots, cnt := ⟨0, 0, 0, 0, 0, 0, 0, 0, 0, 0, 0, 0, 0, 0, 0, 0⟩ })

/-- R303: `DETACH` clears `G.ATTACHED`, destroys the contexts and emits nothing. The rest of the frame is the model's choice
(log 20): R303 makes every field meaningless, and the model keeps the configuration, the cursors, the counters and the
pending bits as they are; `DETACH` runs whatever `OP` is, which R311 (b) leaves to the host. The spec gives it no result:
what the model returns is left open here. -/
def Obligations.DetachDestroysTheContexts : Prop :=
  ∀ s : State, s.attached = true →
    ∃ r : Option Result, exec .detach s = .next { s with attached := false, channels := [], ret := r }

/-- No operation of the core but `ATTACH` is defined while detached: the machine is stuck (R311 (a); that being stuck is
a fault is the model's, log 13). -/
def Obligations.NothingElseRunsDetached : Prop :=
  ∀ (i : Instr) (s : State), s.attached = false → isOutbound i = false → (∀ cfg, i ≠ .attach cfg) →
    exec i s = .fault .notAttached

/-! ### Host requests -/

/-- R184 (with R183, R185): `BUSON` returns `Busy` while a request is in progress. An accepted one issues one
abort+flush+reset command, or awaits the flush that is already outstanding; it cancels the poll timer and arms the bounded wait. The caller is blocked: nothing is returned. -/
def Obligations.BusonStartsOrAwaitsAFlush : Prop :=
  ∀ (s : State) (c : Nat) (ch : Chan), serves s c ch →
    (ch.op ≠ .none → exec (.buson c) s = .next { s with ret := some .busy }) ∧
    (ch.op = .none → ch.flushPending = false →
      exec (.buson c) s = .next { s.after c
        { ch with
          pollCnt := 0
          cmdSeq := ch.cmdSeq + 1
          flushSeq := ch.cmdSeq + 1
          flushPending := true
          eofDeferred := false
          op := .buson
          stage := .waitFlush
          waitCnt := s.cfg.tWait }
        [.writeCommand c (ch.cmdSeq + 1) .abortFlushReset] [] with ret := none }) ∧
    (ch.op = .none → ch.flushPending = true →
      exec (.buson c) s = .next { s.after c
        { ch with
          pollCnt := 0
          op := .buson
          stage := .waitFlush
          waitCnt := s.cfg.tWait }
        [] [] with ret := none })

/-- R195 (with R183, R185, R223): `STOP` returns `Busy` while a request is in progress. An accepted one closes the send
path, with `tx_stop` if it was open, and starts a flush or awaits the outstanding one. -/
def Obligations.StopClosesTheSendPathAndFlushes : Prop :=
  ∀ (s : State) (c : Nat) (ch : Chan), serves s c ch →
    (ch.op ≠ .none → exec (.stop c) s = .next { s with ret := some .busy }) ∧
    (ch.op = .none → ch.flushPending = false →
      exec (.stop c) s = .next { s.after c
        { ch with
          txEnabled := false
          cmdSeq := ch.cmdSeq + 1
          flushSeq := ch.cmdSeq + 1
          flushPending := true
          eofDeferred := false
          op := .stop
          stage := .waitFlush
          waitCnt := s.cfg.tWait }
        ((if ch.txEnabled = true ∧ ch.txFull = false then [.txStop c] else [])
          ++ [.writeCommand c (ch.cmdSeq + 1) .abortFlushReset]) [] with ret := none }) ∧
    (ch.op = .none → ch.flushPending = true →
      exec (.stop c) s = .next { s.after c
        { ch with
          txEnabled := false
          op := .stop
          stage := .waitFlush
          waitCnt := s.cfg.tWait }
        (if ch.txEnabled = true ∧ ch.txFull = false then [.txStop c] else []) [] with ret := none })

/-- R220, R221, R222: an invalid frame is refused; a valid one is refused while the send path is closed, the next slot
is occupied or the hardware count is at `TX_MAX` = K + 1; otherwise it occupies the next slot, goes to the FIFO, and the
send path is stopped if the ring is now full. -/
def Obligations.SubmitAdmitsOrRefuses : Prop :=
  ∀ (s : State) (c : Nat) (ch : Chan) (f : TxFrame) (hwPre hwPost : Byte), serves s c ch →
    (¬ submittable s.cfg c f → exec (.submit c f hwPre hwPost) s = .next { s with ret := some .invalidFrame }) ∧
    (submittable s.cfg c f →
      ch.txEnabled = false ∨ slotPresent ch ch.echoIdx = true ∨ s.cfg.k + 1 ≤ hwPre.toNat →
      exec (.submit c f hwPre hwPost) s = .next { s with ret := some .queueFull }) ∧
    (submittable s.cfg c f → ch.txEnabled = true → slotPresent ch ch.echoIdx = false → hwPre.toNat < s.cfg.k + 1 →
      let slots := ch.slots.set ch.echoIdx ⟨true, if f.rtr then 0 else f.len, f⟩
      let next := (ch.echoIdx + 1) % s.cfg.k
      let full := (slots.getD next ⟨false, 0, f⟩).present = true ∨ s.cfg.k + 1 ≤ hwPost.toNat
      exec (.submit c f hwPre hwPost) s = .next { s.after c
        { ch with
          slots := slots
          echoIdx := next
          txFull := if full then true else ch.txFull }
        (.txFifo c (encodeTx f ch.echoIdx (chanCfg s.cfg c).oneshot)
          :: (if full ∧ ch.txFull = false then [.txStop c] else [])) [] with
        ret := some (.okSlot ch.echoIdx) })

/-- A host request or a notification that names no channel is refused by name (log 14: the spec says nothing of it). -/
def Obligations.RequestsForNoChannelAreRefused : Prop :=
  ∀ (s : State) (c : Nat) (f : TxFrame) (a b : Byte), s.attached = true → s.channels.length ≤ c →
    ∀ i ∈ [Instr.buson c, .stop c, .submit c f a b, .txStatus c], exec i s = .refused (.noSuchChannel c)

/-! ### Time -/

/-- R285: a tick runs the wait timer and then the poll timer of every channel, in increasing order; nothing else of the
state changes. What the two timers do is stated next. -/
def Obligations.TickVisitsEveryChannel : Prop :=
  ∀ s : State, s.attached = true →
    let visit (c : Nat) (ch : Chan) : Work := tickPoll (s.ctx c) (tickWait (s.ctx c) (Work.start ch))
    exec .tick s = .next { s with
      channels := s.channels.mapIdx fun c ch => (visit c ch).ch
      trace := s.trace ++ (s.channels.mapIdx fun c ch => (visit c ch).out).flatten
      outbox := s.outbox ++ (s.channels.mapIdx fun c ch => (visit c ch).out).flatten.flatMap Event.regWrites }

/-- R285, R198, R199: the wait timer stays at 0, counts down, and on the way from 1 to 0 ends the request in progress
with `Timeout`: a bus-on gives up its flush only in `WAIT_FLUSH`, a stop ends in `STOPPED` with an empty echo ring. That a
bus-on clears `EOF_DEFERRED` in either stage is D19's reading of R198's line (log 18). -/
def Obligations.WaitTimerEndsTheRequest : Prop :=
  ∀ (x : Ctx) (ch : Chan),
    (ch.waitCnt = 0 → tickWait x (Work.start ch) = Work.start ch) ∧
    (2 ≤ ch.waitCnt.toNat → tickWait x (Work.start ch) = Work.start { ch with waitCnt := ch.waitCnt - 1 }) ∧
    (ch.waitCnt = 1 → ch.op = .buson →
      tickWait x (Work.start ch) =
        { ch := { ch with
            waitCnt := 0
            op := .none
            flushPending := if ch.stage = .waitFlush then false else ch.flushPending
            eofDeferred := false }
          out := [.opDone x.c .buson .timeout], log := [], ret := none }) ∧
    (ch.waitCnt = 1 → ch.op = .stop →
      tickWait x (Work.start ch) =
        { ch := { ch with
            waitCnt := 0
            op := .none
            flushPending := false
            eofDeferred := false
            pollCnt := 0
            busState := .stopped
            txFull := false
            slots := ch.slots.map fun sl => { sl with present := false } }
          out := (if ch.busState ≠ .stopped then [.onBusStateChange x.c ch.busState .stopped] else [])
            ++ [.opDone x.c .stop .timeout]
          log := [], ret := none })

/-- R285, R254: the poll timer stays at 0, counts down, and on the way from 1 to 0 is postponed while a request is in
progress, does nothing for a stopped channel, and otherwise enables error packets again and requests the status. -/
def Obligations.PollTimerRequestsTheStatus : Prop :=
  ∀ (x : Ctx) (w : Work),
    (w.ch.pollCnt = 0 → tickPoll x w = w) ∧
    (2 ≤ w.ch.pollCnt.toNat → tickPoll x w = { w with ch := { w.ch with pollCnt := w.ch.pollCnt - 1 } }) ∧
    (w.ch.pollCnt = 1 → w.ch.op ≠ .none → tickPoll x w = { w with ch := { w.ch with pollCnt := x.cfg.tPoll } }) ∧
    (w.ch.pollCnt = 1 → w.ch.op = .none → w.ch.busState = .stopped →
      tickPoll x w = { w with ch := { w.ch with pollCnt := 0 } }) ∧
    (w.ch.pollCnt = 1 → w.ch.op = .none → w.ch.busState ≠ .stopped →
      tickPoll x w = { w with
        ch := { w.ch with
          pollCnt := 0
          errGenEn := true
          cmdSeq := w.ch.cmdSeq + 1
          errRepCnt := 0 }
        out := w.out ++ [.setModeBits x.c 0x1000 0x1000, .writeCommand x.c (w.ch.cmdSeq + 1) .requestStatus] })

/-! ### Notifications -/

/-- R160, R280, R41 (a): `RX_READY(b)` enters the handler, takes the buffer and sets its cursor to 0. Which buffer is
consumed is kept in a field of the model (log 17); that no signal of the buffer stays held is the model's (log 16). -/
def Obligations.RxReadyStartsTheConsumption : Prop :=
  ∀ (s : State) (b : Buf), s.attached = true → s.notifyBusy = false →
    exec (.rxReady b) s = .next { s with
      notifyBusy := true
      rxPending := s.rxPending.set b true
      curBuf := b
      cursor := s.cursor.set b 0
      held := s.held.filter fun i => i ≠ .rxReady b }

/-- R173: a DMA overflow or underflow is counted, acknowledged, and has no other effect. -/
def Obligations.DmaLossIsCounted : Prop :=
  ∀ (s : State) (b : Buf), s.attached = true → s.notifyBusy = false →
    exec (.dmaOverflow b) s = .next { s with
      global := { s.global with dmaOverflows := s.global.dmaOverflows + 1 } } ∧
    exec (.dmaUnderflow b) s = .next { s with
      global := { s.global with dmaUnderflows := s.global.dmaUnderflows + 1 } }

/-- R283: `TX_STATUS` is acknowledged and changes no state. -/
def Obligations.TxStatusHasNoEffect : Prop :=
  ∀ (s : State) (c : Nat), s.attached = true → s.notifyBusy = false → c < s.channels.length →
    exec (.txStatus c) s = .next s

/-- R280: while a notification is handled no other is; it is held pending, `RX_READY(b)` as `G.RX_PENDING[b]` = 1. That
the pending ones are kept in a list, and that a second `RX_READY` of a pending buffer adds nothing, is the model's
(log 16). -/
def Obligations.NotificationsWaitWhileOneIsHandled : Prop :=
  ∀ (s : State) (b : Buf) (c : Nat), s.attached = true → s.notifyBusy = true →
    (s.rxPending.get b = false →
      exec (.rxReady b) s = .next { s with
        rxPending := s.rxPending.set b true
        held := s.held ++ [.rxReady b] }) ∧
    (s.rxPending.get b = true → exec (.rxReady b) s = .next s) ∧
    (c < s.channels.length → exec (.txStatus c) s = .next { s with held := s.held ++ [.txStatus c] }) ∧
    exec (.dmaOverflow b) s = .next { s with held := s.held ++ [.dmaOverflow b] } ∧
    exec (.dmaUnderflow b) s = .next { s with held := s.held ++ [.dmaUnderflow b] }

/-! ### The ring consumer -/

/-- R162: a zero size word at the cursor ends the fill, whatever follows it: cursor 0, no counter, nothing logged, no
packet handled, the buffer re-armed (R171). -/
def Obligations.EndMarkerEndsTheFill : Prop :=
  (∀ s : State, s.attached = true → s.notifyBusy = true → exec .endMark s = .next s.rearmed) ∧
  (∀ s s' : State, handlerTurn s s' → s.attached = true → s.notifyBusy = true → s.cursor.get s.curBuf < 1024 →
    memRead s.mem s.curBuf (s.cursor.get s.curBuf) = 0 → step s = .next s'.rearmed)

/-- R163: a size of 1 to 4, and a packet whose declared size or computed length passes the end of the buffer, is
malformed: its handler is not run, `G.FRAMING_ERRORS` counts it, and the buffer is abandoned and re-armed. Where a size of
1 to 4 also passes the end of the buffer (a cursor from 1020 to 1023) the first of the two is reported, in the order of
R131 and R277; R164's words say `Overrun` there (log 25). -/
def Obligations.MalformedPacketsAbortTheBuffer : Prop :=
  (∀ s : State, s.attached = true → s.notifyBusy = true →
    ∀ i ∈ [Instr.undersize1, .undersize2, .undersize3, .undersize4],
      exec i s = .next (State.rearmed { s with
        global := { s.global with framingErrors := s.global.framingErrors + 1 }
        log := s.log ++ [.malformedPacket s.curBuf (s.cursor.get s.curBuf) .undersize] })) ∧
  (∀ ws : List Word, decodeRing ws = .error .overrun ↔
    5 ≤ (ws.getD 0 0).toNat ∧
      ws.length < max (ws.getD 0 0).toNat (packetLen (ws.getD 0 0).toNat (ws.getD 1 0) (ws.getD 2 0))) ∧
  (∀ s s' : State, handlerTurn s s' → s.attached = true → s.notifyBusy = true → s.cursor.get s.curBuf < 1024 →
    decodeRing (bufWordsFrom s.mem s.curBuf (s.cursor.get s.curBuf)) = .error .overrun →
    step s = .next (State.rearmed { s' with
      global := { s.global with framingErrors := s.global.framingErrors + 1 }
      log := s.log ++ [.malformedPacket s.curBuf (s.cursor.get s.curBuf) .overrun] }))

/-- R164, R41 (e): a cursor at the end of the buffer ends the consumption without error. -/
def Obligations.BufferBoundEndsTheFillSilently : Prop :=
  ∀ s s' : State, handlerTurn s s' → s.attached = true → s.notifyBusy = true → s.cursor.get s.curBuf = 1024 →
    step s = .next s'.rearmed

/-- R168: a data packet is delivered once, whatever the bus state, with the scaled timestamp; without a buffer it is
counted as dropped. -/
def Obligations.DataFrameIsDeliveredOrDropped : Prop :=
  ∀ (h : Hdr) (p : DataPkt) (s : State) (ch : Chan), receives s h p.words ch →
    (s.draw.allocOk = true →
      exec (.data h p) s = .next ((s.after h.ch.toNat
        { ch with cnt := { ch.cnt with
            rxPackets := ch.cnt.rxPackets + 1
            rxBytes := ch.cnt.rxBytes + BitVec.ofNat 64 (if p.rtr then 0 else p.len) } }
        [.onRxFrame h.ch.toNat
          { id := p.id, ide := p.ide, rtr := p.rtr, fdf := p.fdf, brs := p.brs, esi := p.esi, len := p.len, data := p.data, tsNs := h.ts.toNat * 1000 / (s.cfg.coreClockHz / 1000000) }]
        []).pastPacket h.size)) ∧
    (s.draw.allocOk = false →
      exec (.data h p) s = .next ((s.after h.ch.toNat
        { ch with cnt := { ch.cnt with rxDropped := ch.cnt.rxDropped + 1 } } [] [.allocationFailure h.ch.toNat]).pastPacket
          h.size))

/-- R169: a packet of a known type without a handler is counted, one of an unassigned type is logged (R271) and counted;
nothing else changes, no draw is looked at, and the cursor moves by the declared size. -/
def Obligations.PacketsWithoutHandlerAreSkipped : Prop :=
  ∀ (h : Hdr) (p : OpaquePkt) (s : State) (ch : Chan), receives s h h.size ch →
    (∀ i ∈ [Instr.txrq h p, .eframeAck h p, .ackData h p, .busLoad h p],
      exec i s = .next ((s.after h.ch.toNat
        { ch with cnt := { ch.cnt with unexpectedPackets := ch.cnt.unexpectedPackets + 1 } } [] []).pastPacket h.size)) ∧
    (∀ j ∈ [(Instr.unknown7 h p, (7 : BitVec 4)), (.unknownA h p, 10), (.unknownB h p, 11), (.unknownC h p, 12),
        (.unknownD h p, 13), (.unknownE h p, 14), (.unknownF h p, 15)],
      exec j.1 s = .next ((s.after h.ch.toNat
        { ch with cnt := { ch.cnt with unknownPackets := ch.cnt.unknownPackets + 1 } } []
        [.unknownPacketType h.ch.toNat j.2]).pastPacket h.size))

/-- R167: a packet of any type that names no channel is counted in `G.INVALID_CHANNEL` and logged, and no handler runs;
consumption goes on with the framing check and the next packet. -/
def Obligations.InvalidChannelIsLogged : Prop :=
  ∀ (i : Instr) (h : Hdr) (s : State), ringHdr i = some h → s.attached = true → s.notifyBusy = true →
    s.channels.length ≤ h.ch.toNat →
    let logged : State := { s with
      global := { s.global with invalidChannel := s.global.invalidChannel + 1 }
      log := s.log ++ [.protocolViolation .invalidChannel h.ch.toNat] }
    (h.size = ringLen i → exec i s = .next (logged.pastPacket h.size)) ∧
    (h.size ≠ ringLen i → exec i s = .next (State.rearmed { logged with
      global := { logged.global with framingErrors := logged.global.framingErrors + 1 }
      log := logged.log ++ [.framingError s.curBuf (s.cursor.get s.curBuf)] }))

/-- R170: a packet whose declared size is not its computed length keeps the effects it would have with the right size;
then `G.FRAMING_ERRORS` counts it, and the rest of the buffer is abandoned and re-armed. Only `DATA` and the four
fixed-length types can fail the check. -/
def Obligations.FramingErrorKeepsEffectsAndAborts : Prop :=
  ∀ (i : Instr) (h : Hdr) (s : State), ringHdr i = some h → s.attached = true → s.notifyBusy = true →
    h.size ≠ ringLen i →
    (∃ t : State, exec (withSize (ringLen i) i) s = .next (t.pastPacket (ringLen i)) ∧
      exec i s = .next (State.rearmed { t with
        global := { t.global with framingErrors := t.global.framingErrors + 1 }
        log := t.log ++ [.framingError s.curBuf (s.cursor.get s.curBuf)] })) ∧
    ((∃ p, i = .data h p) ∨ (∃ p, i = .ack h p) ∨ (∃ p, i = .status h p) ∨ (∃ p, i = .error h p) ∨
      ∃ q, i = .eflushAck h q)

/-! ### Acknowledgements -/

/-- R231: an acknowledgement of a control write is ignored entirely. -/
def Obligations.ControlAckIsIgnored : Prop :=
  ∀ (h : Hdr) (p : AckPkt) (s : State) (ch : Chan), receives s h 5 ch → p.ct = true →
    exec (.ack h p) s = .next (s.pastPacket 5)

/-- R224-R230: an acknowledgement of a frame. A NACK is counted and reported first (R230). Then the slot: unknown is
logged (R225), flushed is emptied and no more (R226), otherwise it is released, reported, counted unless NACKed (R227),
and the send path resumes if the ring was full and has headroom (R228). Then a deferred end-of-flush is sent if the
hardware count is 0 (R229). -/
def Obligations.FrameAckReleasesItsSlot : Prop :=
  ∀ (h : Hdr) (p : AckPkt) (s : State) (ch : Chan), receives s h 5 ch → p.ct = false →
    let c := h.ch.toNat
    let i := p.seq.toNat
    let ns := h.ts.toNat * 1000 / (s.cfg.coreClockHz / 1000000)
    let nackEvents : List Event :=
      if p.nack = true ∧ s.draw.allocOk = true then
        [.onBusError c { classes := ⟨true, false, false, false, false, p.abl, !p.abl⟩, txState := .errorActive, rxState := .errorActive, txerr := 0, rxerr := 0, tsNs := ns }]
      else []
    let nackLog : List Exc := if p.nack = true ∧ s.draw.allocOk = false then [.allocationFailure c] else []
    let cnt : Counters := if p.nack then { ch.cnt with
        txErrors := ch.cnt.txErrors + 1
        arbLost := ch.cnt.arbLost + (if p.abl then 1 else 0)
        rxDropped := ch.cnt.rxDropped + (if s.draw.allocOk then 0 else 1) } else ch.cnt
    let eof := ch.eofDeferred = true ∧ ch.flushPending = true ∧ s.draw.hwCount = 0
    let eofEvents : List Event := if eof then [.writeControl c] else []
    let emptied := ch.slots.modify i fun sl => { sl with present := false }
    let resume := ch.txFull = true ∧ (emptied.getD ch.echoIdx ⟨false, 0, zeroFrame⟩).present = false ∧
      s.draw.hwCount.toNat < s.cfg.k + 1
    (s.cfg.k ≤ i ∨ slotPresent ch i = false →
      exec (.ack h p) s = .next ((s.after c
        { ch with
          cnt := { cnt with protoViolations := cnt.protoViolations + 1 }
          eofDeferred := if eof then false else ch.eofDeferred }
        (nackEvents ++ eofEvents) (nackLog ++ [.protocolViolation .unknownSlot c])).pastPacket 5)) ∧
    (i < s.cfg.k → slotPresent ch i = true → p.flu = true →
      exec (.ack h p) s = .next ((s.after c
        { ch with
          slots := emptied
          cnt := cnt
          eofDeferred := if eof then false else ch.eofDeferred }
        (nackEvents ++ eofEvents) nackLog).pastPacket 5)) ∧
    (i < s.cfg.k → slotPresent ch i = true → p.flu = false →
      exec (.ack h p) s = .next ((s.after c
        { ch with
          slots := emptied
          txFull := if resume then false else ch.txFull
          cnt := if p.nack then cnt else { cnt with
            txPackets := cnt.txPackets + 1
            txBytes := cnt.txBytes + BitVec.ofNat 64 (slotLen ch i) }
          eofDeferred := if eof then false else ch.eofDeferred }
        (nackEvents ++ [.onTxComplete c i (slotLen ch i) ns (!p.nack)]
          ++ (if resume ∧ ch.txEnabled = true then [.txResume c] else []) ++ eofEvents) nackLog).pastPacket 5))

/-! ### The classifier -/

/-- R241, R242: the four states by flags and counters, and the half states: the state for the side whose counter is the
larger (both when equal), `ERROR_ACTIVE` for the other. -/
def Obligations.ClassifierFollowsItsTable : Prop :=
  ∀ (tx rx : Byte) (f : ErrFlags),
    let off := f.boff = true ∨ f.irm = true ∨ 255 ≤ tx.toNat ∨ 255 ≤ rx.toNat
    let passive := f.eplr = true ∨ 128 ≤ tx.toNat ∨ 128 ≤ rx.toNat
    let warning := f.ewlr = true ∨ 96 ≤ tx.toNat ∨ 96 ≤ rx.toNat
    let r := classify tx rx f
    (r.state = .busOff ↔ off) ∧ (r.state = .errorPassive ↔ ¬ off ∧ passive) ∧
    (r.state = .errorWarning ↔ ¬ off ∧ ¬ passive ∧ warning) ∧
    (r.state = .errorActive ↔ ¬ off ∧ ¬ passive ∧ ¬ warning) ∧ r.state ≠ .stopped ∧
    (rx.toNat ≤ tx.toNat → r.txState = r.state) ∧ (tx.toNat < rx.toNat → r.txState = .errorActive) ∧
    (tx.toNat ≤ rx.toNat → r.rxState = r.state) ∧ (rx.toNat < tx.toNat → r.rxState = .errorActive)

/-- R243: raising a counter or setting a flag never lowers the state (both at once, which is the stronger statement). -/
def Obligations.ClassifierIsMonotone : Prop :=
  ∀ (tx tx' rx rx' : Byte) (f g : ErrFlags), tx.toNat ≤ tx'.toNat → rx.toNat ≤ rx'.toNat →
    (f.boff = true → g.boff = true) → (f.irm = true → g.irm = true) → (f.eplr = true → g.eplr = true) →
    (f.ewlr = true → g.ewlr = true) →
    (classify tx rx f).state.code ≤ (classify tx' rx' g).state.code

/-- R244: the source's three examples. -/
def Obligations.ClassifierExamples : Prop :=
  classify 200 10 ⟨false, false, false, false⟩ = ⟨.errorPassive, .errorPassive, .errorActive⟩ ∧
  classify 0 0 ⟨true, false, false, false⟩ = ⟨.busOff, .busOff, .busOff⟩ ∧
  classify 50 50 ⟨false, false, false, false⟩ = ⟨.errorActive, .errorActive, .errorActive⟩

/-- R245: for a stopped channel an `ERROR` packet, and a `STATUS` packet that would be a solicited response, change no
state, emit nothing and are not counted. -/
def Obligations.StoppedChannelIsNotClassified : Prop :=
  ∀ (h : Hdr) (s : State) (ch : Chan), receives s h 5 ch → ch.busState = .stopped →
    (∀ p : ErrorPkt, exec (.error h p) s = .next (s.pastPacket 5)) ∧
    (∀ p : StatusPkt, p.aut = false → p.seq = ch.cmdSeq →
      ¬ (ch.op = .buson ∧ ch.stage = .waitStart ∧ p.irm = false ∧ p.rmcd = false ∧ p.boff = false) →
      ¬ (ch.flushPending = true ∧ p.irm = true ∧ p.rmcd = true) →
      exec (.status h p) s = .next (s.pastPacket 5))

/-- R246, R247, R200, R251: a state change writes the state, counts it and announces it first; entering `BUS_OFF` closes
the send path and, under manual restart, forces a flush unless one is outstanding; leaving it for `ERROR_ACTIVE` under
auto-restart is a restart. -/
def Obligations.StateChangeAnnouncesAndCounts : Prop :=
  ∀ (x : Ctx) (new : BusState) (w : Work),
    let ch := w.ch
    let forced := new = .busOff ∧ (chanCfg x.cfg x.c).restartMs = 0 ∧ ch.flushPending = false
    let restart := ch.busState = .busOff ∧ new = .errorActive ∧ 0 < (chanCfg x.cfg x.c).restartMs
    changeState x new w = { w with
      ch := { ch with
        busState := new
        txEnabled := if new = .busOff then false else ch.txEnabled
        cmdSeq := if forced then ch.cmdSeq + 1 else ch.cmdSeq
        flushSeq := if forced then ch.cmdSeq + 1 else ch.flushSeq
        flushPending := if forced then true else ch.flushPending
        eofDeferred := if forced then false else ch.eofDeferred
        cnt := { ch.cnt with
          cntWarning := ch.cnt.cntWarning + (if new = .errorWarning then 1 else 0)
          cntPassive := ch.cnt.cntPassive + (if new = .errorPassive then 1 else 0)
          cntBusOff := ch.cnt.cntBusOff + (if new = .busOff then 1 else 0)
          restarts := ch.cnt.restarts + (if restart then 1 else 0) } }
      out := w.out ++ [.onBusStateChange x.c ch.busState new]
        ++ (if new = .busOff ∧ ch.txEnabled = true ∧ ch.txFull = false then [.txStop x.c] else [])
        ++ (if forced then [.writeCommand x.c (ch.cmdSeq + 1) .abortFlushReset] else [])
        ++ (if restart then [.onRestart x.c] else []) } ∧
    changeClasses x ch.busState new =
      { crtl := true, busOff := decide (new = .busOff), restarted := decide restart }

/-- R248, R249: an `ERROR` packet for a channel that is not stopped changes the state if the classifier says another one,
is counted, stored and reported (or the report is dropped), disables error packets at the 256th report, and arms the
poll timer. -/
def Obligations.ErrorPacketIsClassifiedAndReported : Prop :=
  ∀ (h : Hdr) (p : ErrorPkt) (s : State) (ch : Chan), receives s h 5 ch → ch.busState ≠ .stopped →
    let c := h.ch.toNat
    let x := s.ctx c
    let r := classify p.txerr p.rxerr ⟨p.boff, p.irm, p.eplr, p.ewlr⟩
    let changed := r.state ≠ ch.busState
    let w := if changed then changeState x r.state (Work.start ch) else Work.start ch
    let cap := 256 ≤ (ch.errRepCnt + 1).toNat ∧ ch.errGenEn = true
    let restart := ch.busState = .busOff ∧ r.state = .errorActive ∧ 0 < (chanCfg s.cfg c).restartMs
    exec (.error h p) s = .next ((s.after c
      { w.ch with
        errRepCnt := ch.errRepCnt + 1
        txErr := p.txerr
        rxErr := p.rxerr
        errGenEn := if cap then false else ch.errGenEn
        pollCnt := s.cfg.tPoll
        cnt := { w.ch.cnt with
          busErrors := w.ch.cnt.busErrors + 1
          txErrors := w.ch.cnt.txErrors + (if p.dirTx then 1 else 0)
          rxErrors := w.ch.cnt.rxErrors + (if p.dirTx then 0 else 1)
          rxDropped := w.ch.cnt.rxDropped + (if s.draw.allocOk then 0 else 1) } }
      (w.out
        ++ (if s.draw.allocOk then
          [.onBusError c
            { classes := { busError := true, cnt := true, crtl := decide changed, busOff := decide (changed ∧ r.state = .busOff), restarted := decide restart, lostArb := false, ack := false }
              txState := if changed then r.txState else .errorActive
              rxState := if changed then r.rxState else .errorActive
              txerr := p.txerr
              rxerr := p.rxerr
              tsNs := h.ts.toNat * 1000 / (s.cfg.coreClockHz / 1000000) }] else [])
        ++ (if cap then [.setModeBits c 0x1000 0] else []))
      (if s.draw.allocOk then [] else [.allocationFailure c])).pastPacket 5)

/-! ### Status packets and the flush -/

/-- R192: the start status completes a bus-on. -/
def Obligations.StartStatusCompletesTheBuson : Prop :=
  ∀ (h : Hdr) (p : StatusPkt) (s : State) (ch : Chan), receives s h 5 ch →
    ch.op = .buson → ch.stage = .waitStart → p.irm = false → p.rmcd = false → p.boff = false → p.seq = ch.cmdSeq →
    exec (.status h p) s = .next ((s.after h.ch.toNat
      { ch with
        busState := .errorActive
        txErr := 0
        rxErr := 0
        errRepCnt := 0
        cmdSeq := 0
        errGenEn := true
        op := .none
        waitCnt := 0
        txEnabled := true
        txFull := false }
      ((if ch.errGenEn then [] else [.setModeBits h.ch.toNat 0x1000 0x1000])
        ++ (if ch.busState ≠ .errorActive then [.onBusStateChange h.ch.toNat ch.busState .errorActive] else [])
        ++ (if ch.txEnabled = true ∧ ch.txFull = false then [] else [.txResume h.ch.toNat])
        ++ [.opDone h.ch.toNat .buson .ok]) []).pastPacket 5)

/-- R188: an automatic idle status in reset mode with the flush's sequence re-issues the command; the flush stays the
same one and its wait is not re-armed. -/
def Obligations.IdleStatusRetriggersTheFlush : Prop :=
  ∀ (h : Hdr) (p : StatusPkt) (s : State) (ch : Chan), receives s h 5 ch →
    ch.flushPending = true → p.idet = true → p.irm = true → p.aut = true → p.seq = ch.flushSeq →
    exec (.status h p) s = .next ((s.after h.ch.toNat
      { ch with cmdSeq := ch.cmdSeq + 1, flushSeq := ch.cmdSeq + 1 }
      [.writeCommand h.ch.toNat (ch.cmdSeq + 1) .abortFlushReset] []).pastPacket 5)

/-- R189, R186: a detected reset mid-flush sends the end-of-flush if the hardware count is 0, and defers it otherwise;
the sequence number is not tested, and no command is counted. -/
def Obligations.ResetStatusSendsOrDefersTheEndOfFlush : Prop :=
  ∀ (h : Hdr) (p : StatusPkt) (s : State) (ch : Chan), receives s h 5 ch →
    ch.flushPending = true → p.irm = true → p.rmcd = true → ¬ (p.idet = true ∧ p.aut = true ∧ p.seq = ch.flushSeq) →
    (s.draw.hwCount = 0 →
      exec (.status h p) s = .next ((s.after h.ch.toNat { ch with eofDeferred := false } [.writeControl h.ch.toNat]
        []).pastPacket 5)) ∧
    (s.draw.hwCount ≠ 0 →
      exec (.status h p) s = .next ((s.after h.ch.toNat { ch with eofDeferred := true } [] []).pastPacket 5))

/-- R250: a solicited response for a channel that is not stopped is classified: a change is announced and reported, the
counters are stored in either case, and the poll timer is armed while there is error activity. -/
def Obligations.SolicitedStatusIsClassified : Prop :=
  ∀ (h : Hdr) (p : StatusPkt) (s : State) (ch : Chan), receives s h 5 ch →
    p.aut = false → p.seq = ch.cmdSeq →
    ¬ (ch.op = .buson ∧ ch.stage = .waitStart ∧ p.irm = false ∧ p.rmcd = false ∧ p.boff = false) →
    ¬ (ch.flushPending = true ∧ p.irm = true ∧ p.rmcd = true) → ch.busState ≠ .stopped →
    let c := h.ch.toNat
    let x := s.ctx c
    let r := classify p.txerr p.rxerr ⟨p.boff, p.irm, p.eplr, p.ewlr⟩
    let changed := r.state ≠ ch.busState
    let w := if changed then changeState x r.state (Work.start ch) else Work.start ch
    let restart := ch.busState = .busOff ∧ r.state = .errorActive ∧ 0 < (chanCfg s.cfg c).restartMs
    let active := p.txerr ≠ 0 ∨ p.rxerr ≠ 0 ∨ r.state = .errorWarning ∨ r.state = .errorPassive
    exec (.status h p) s = .next ((s.after c
      { w.ch with
        txErr := p.txerr
        rxErr := p.rxerr
        pollCnt := if active then s.cfg.tPoll else ch.pollCnt
        cnt := { w.ch.cnt with
          rxDropped := w.ch.cnt.rxDropped + (if changed ∧ s.draw.allocOk = false then 1 else 0) } }
      (w.out ++ (if changed ∧ s.draw.allocOk = true then
        [.onBusError c
          { classes := { cnt := true, crtl := true, busOff := decide (r.state = .busOff), restarted := decide restart, busError := false, lostArb := false, ack := false }
            txState := r.txState
            rxState := r.rxState
            txerr := p.txerr
            rxerr := p.rxerr
            tsNs := h.ts.toNat * 1000 / (s.cfg.coreClockHz / 1000000) }] else []))
      (if changed ∧ s.draw.allocOk = false then [.allocationFailure c] else [])).pastPacket 5)

/-- R194: a status packet that takes no branch changes no protocol state; the answer to a stale command is logged and
counted, an unsolicited status is not. -/
def Obligations.OtherStatusIsIgnored : Prop :=
  ∀ (h : Hdr) (p : StatusPkt) (s : State) (ch : Chan), receives s h 5 ch →
    ¬ (ch.op = .buson ∧ ch.stage = .waitStart ∧ p.irm = false ∧ p.rmcd = false ∧ p.boff = false ∧
      p.seq = ch.cmdSeq) →
    ¬ (ch.flushPending = true ∧ p.idet = true ∧ p.irm = true ∧ p.aut = true ∧ p.seq = ch.flushSeq) →
    ¬ (ch.flushPending = true ∧ p.irm = true ∧ p.rmcd = true) →
    (p.aut = false → p.seq ≠ ch.cmdSeq →
      exec (.status h p) s = .next ((s.after h.ch.toNat
        { ch with cnt := { ch.cnt with protoViolations := ch.cnt.protoViolations + 1 } } []
        [.protocolViolation .staleSequence h.ch.toNat]).pastPacket 5)) ∧
    (p.aut = true → exec (.status h p) s = .next (s.pastPacket 5))

/-- R190, R191, R197: a flush acknowledgement without a matching flush is logged; a matching one ends the flush, and
moves a bus-on to its second wait, ends a stop in `STOPPED` with an empty echo ring, or does nothing more. -/
def Obligations.FlushAckCompletesTheFlush : Prop :=
  ∀ (h : Hdr) (q : Byte) (s : State) (ch : Chan), receives s h 5 ch →
    let c := h.ch.toNat
    (ch.flushPending = false ∨ q ≠ ch.flushSeq →
      exec (.eflushAck h q) s = .next ((s.after c
        { ch with cnt := { ch.cnt with protoViolations := ch.cnt.protoViolations + 1 } } []
        [.protocolViolation .staleFlushAck c]).pastPacket 5)) ∧
    (ch.flushPending = true → q = ch.flushSeq → ch.op = .buson → ch.stage = .waitFlush →
      exec (.eflushAck h q) s = .next ((s.after c
        { ch with
          flushPending := false
          eofDeferred := false
          rmShadow := false
          stage := .waitStart
          waitCnt := s.cfg.tWait }
        [.setModeBits c 0x100 0] []).pastPacket 5)) ∧
    (ch.flushPending = true → q = ch.flushSeq → ch.op = .stop → ch.stage = .waitFlush →
      exec (.eflushAck h q) s = .next ((s.after c
        { ch with
          flushPending := false
          eofDeferred := false
          pollCnt := 0
          busState := .stopped
          slots := ch.slots.map fun sl => { sl with present := false }
          txFull := false
          op := .none
          waitCnt := 0 }
        ((if ch.busState ≠ .stopped then [.onBusStateChange c ch.busState .stopped] else [])
          ++ [.opDone c .stop .ok]) []).pastPacket 5)) ∧
    (ch.flushPending = true → q = ch.flushSeq → ch.op = .none ∨ ch.stage = .waitStart →
      exec (.eflushAck h q) s = .next ((s.after c { ch with flushPending := false, eofDeferred := false } [] []).pastPacket
        5))

/-! ### Outbound words -/

/-- R110, R111, R112, R118: the word each outbound row puts into its register, the other bits of `MODE` preserved. That
the controller's registers are kept in the state at all is the model's (log 8). -/
def Obligations.OutboundWordsReachTheirRegisters : Prop :=
  ∀ (s : State) (c : Nat) (r : CtlRegs) (q : Byte) (f : TxWords), s.regs[c]? = some r →
    exec (.requestStatus c q) s = .next { s with regs := s.regs.set c { r with cmd := BitVec.ofNat 32 (q.toNat * 65536 + 1) } } ∧
    exec (.abortFlushReset c q) s = .next { s with regs := s.regs.set c { r with cmd := BitVec.ofNat 32 (q.toNat * 65536 + 2) } } ∧
    exec (.eflush c) s = .next { s with regs := s.regs.set c { r with ctrl := 0x80000000 } } ∧
    exec (.modeClearRm c) s = .next { s with regs := s.regs.set c { r with mode := r.mode &&& 0xFFFFFEFF } } ∧
    exec (.modeClearEpen c) s = .next { s with regs := s.regs.set c { r with mode := r.mode &&& 0xFFFFEFFF } } ∧
    exec (.modeSetEpen c) s = .next { s with regs := s.regs.set c { r with mode := r.mode ||| 0x1000 } } ∧
    exec (.txFrame c f) s = .next { s with regs := s.regs.set c { r with fifo := r.fifo ++ encodeTxWords f } }

/-! ### Invariants and whole-machine rules -/

/-- R26, R202 (ii), (iv), (v), (vi), R42, R43: every step keeps every channel context legal. -/
def Obligations.ChannelsStayLegal : Prop := ∀ s t : State, channelsInv s → step s = .next t → channelsInv t

/-- R40, R41: every step keeps a cursor at most 1024, and 0 for a buffer that is not being consumed. -/
def Obligations.CursorsStayLegal : Prop := ∀ s t : State, cursorInv s → step s = .next t → cursorInv t

/-- R202, R275: there is no process-fatal error path. From every legal attached state, with an admissible next input,
the machine takes a step, and unless that step detached it the state is legal again. -/
def Obligations.NoFatalErrorPath : Prop :=
  ∀ s : State, runInv s → (∀ a ∈ s.arrivals.head?, inputLegal s a = true) →
    ∃ t : State, step s = .next t ∧ (t.attached = true → runInv t)

/-- R20, R312: a packet or a host request for one channel neither reads nor writes the context of another: replacing
that context before gives the same next state with it replaced after. -/
def Obligations.ChannelsAreIndependent : Prop :=
  ∀ (i : Instr) (s t : State) (c d : Nat) (x : Chan), actsOn i = some c → d ≠ c → exec i s = .next t →
    exec i { s with channels := s.channels.set d x } = .next { t with channels := t.channels.set d x }

/-- R171, R174 (i), (v), R315: while a buffer is consumed, a step of an attached core either goes on consuming it and
re-arms nothing, or ends the consumption by one of the four exits (end marker, bound, malformed, framing error): then it
re-arms that buffer once, as its last output, clears its pending bit, its cursor and `NOTIFY_BUSY`. Outside a consumption
nothing is re-armed. -/
def Obligations.BufferIsRearmedExactlyOnce : Prop :=
  ∀ s t : State, s.attached = true → step s = .next t →
    ∃ evs : List Event, (∀ e ∈ evs, isArm e = false) ∧
      ((s.notifyBusy = false ∧ t.trace = s.trace ++ evs) ∨
       (s.notifyBusy = true ∧ t.notifyBusy = true ∧ t.curBuf = s.curBuf ∧ t.trace = s.trace ++ evs) ∨
       (s.notifyBusy = true ∧ t.notifyBusy = false ∧ t.trace = s.trace ++ evs ++ [.armDma s.curBuf] ∧
        t.rxPending.get s.curBuf = false ∧ t.cursor.get s.curBuf = 0))

/-- R23, R79, R181, R202 (iii): one operation sends at most one command on a channel; the command carries the
incremented counter, and the counter changes in no other way but the reset to 0 by a completed bus-on. -/
def Obligations.CommandSequenceStepsByOne : Prop :=
  ∀ (i : Instr) (s t : State) (c : Nat) (ch ch' : Chan), exec i s = .next t → s.attached = true →
    s.channels[c]? = some ch → t.channels[c]? = some ch' →
    ∃ evs : List Event, t.trace = s.trace ++ evs ∧
      ((evs.filter (isCommand c) = [] ∧ ch'.cmdSeq = ch.cmdSeq) ∨
       (evs.filter (isCommand c) = [] ∧ ch'.cmdSeq = 0 ∧ .opDone c .buson .ok ∈ evs) ∨
       (∃ op, evs.filter (isCommand c) = [.writeCommand c (ch.cmdSeq + 1) op] ∧ ch'.cmdSeq = ch.cmdSeq + 1))

/-- R201, row by row: the derived state of the channel after a bus-on request, a matching flush acknowledgement of a
bus-on, the start status, the expiry of a bus-on's wait, a classifier result (of an `ERROR` packet or of a solicited
response) for a channel that is active or in bus-off, a stop request, and the matching flush acknowledgement or the expiry
of a stop's wait. -/
def Obligations.StateMachineFollowsItsTable : Prop :=
  ∀ (s t : State) (c : Nat) (ch ch' : Chan), serves s c ch → t.channels[c]? = some ch' →
    (ch.op = .none → exec (.buson c) s = .next t → fsm ch' = .flushing) ∧
    (ch.op = .none → exec (.stop c) s = .next t → fsm ch' = .flushing) ∧
    (∀ (h : Hdr) (q : Byte), h.ch.toNat = c → h.size = 5 → ch.flushPending = true → q = ch.flushSeq →
      ch.stage = .waitFlush → exec (.eflushAck h q) s = .next t →
      (ch.op = .buson → fsm ch' = .idleReset) ∧ (ch.op = .stop → fsm ch' = .stopped)) ∧
    (∀ (h : Hdr) (p : StatusPkt), h.ch.toNat = c → h.size = 5 → fsm ch = .idleReset → p.irm = false →
      p.rmcd = false → p.boff = false → p.seq = ch.cmdSeq → exec (.status h p) s = .next t →
      fsm ch' = .active .errorActive) ∧
    (ch.waitCnt = 1 → exec .tick s = .next t →
      (ch.op = .buson → fsm ch' = fsmOfBus ch.busState) ∧ (ch.op = .stop → fsm ch' = .stopped)) ∧
    ((fsm ch = .busOff ∨ ∃ b, fsm ch = .active b) →
      (∀ (h : Hdr) (p : ErrorPkt), h.ch.toNat = c → h.size = 5 → exec (.error h p) s = .next t →
        fsm ch' = fsmOfBus (classify p.txerr p.rxerr ⟨p.boff, p.irm, p.eplr, p.ewlr⟩).state) ∧
      (∀ (h : Hdr) (p : StatusPkt), h.ch.toNat = c → h.size = 5 → p.aut = false → p.seq = ch.cmdSeq →
        ¬ (ch.flushPending = true ∧ p.irm = true ∧ p.rmcd = true) → exec (.status h p) s = .next t →
        fsm ch' = fsmOfBus (classify p.txerr p.rxerr ⟨p.boff, p.irm, p.eplr, p.ewlr⟩).state))

/-! ### Declared sizes -/

/-- R151 with R152-R157: the size word of an encoded packet is the length of its words, whatever size the operation was
read with; of a packet value that `ENCODE` takes it is the computed length and the declared size. -/
def Obligations.EncodedPacketDeclaresItsLength : Prop :=
  ∀ (i : Instr) (h : Hdr) (ws : List Word), ringHdr i = some h → encode i = .ring ws →
    ws.getD 0 0 = BitVec.ofNat 32 ws.length ∧
    (i.wellFormed = true → ws.length = ringLen i ∧ ws.length = h.size ∧ ws.length ≤ 1024)

/-- R131, R170: a `DATA` packet or one of the four fixed-length types that stands in the buffer under another declared
size decodes to the same packet with that size, if the size is 5 or more and both lengths fit the buffer; the framing check
is the consumer's concern. -/
def Obligations.MisdeclaredSizeDecodesAsDeclared : Prop :=
  ∀ (i : Instr) (h : Hdr) (ws rest : List Word) (n : Nat), i.wellFormed = true → encode i = .ring ws →
    ((∃ p, i = .data h p) ∨ (∃ p, i = .ack h p) ∨ (∃ p, i = .status h p) ∨ (∃ p, i = .error h p) ∨
      ∃ q, i = .eflushAck h q) →
    5 ≤ n → n ≤ 1024 → n ≤ ws.length + rest.length →
    decodeRing (declaredAs n ws ++ rest) = .ok (withSize n i)

/-- R159, the converse: the words of a decoded packet are those `ENCODE` gives exactly when its reserved bits are 0, its
declared size is its computed length and, for `DATA`, its padding bytes are 0. R159's `SIZE = LEN` is read as said of every
type (log 28); an opaque packet has it always. A classic `DATA` packet may have any `DLC` (log 31). -/
def Obligations.EncodeReproducesTheDecodedWords : Prop :=
  ∀ (ws rest : List Word) (i : Instr) (h : Hdr), decodeRing (ws ++ rest) = .ok i → ringHdr i = some h →
    ws.length = h.size →
    (encode i = .ring ws ↔
      ws.getD 1 0 &&& (reservedMasks i).1 = 0 ∧ ws.getD 2 0 &&& (reservedMasks i).2 = 0 ∧ h.size = ringLen i ∧
        ∀ b ∈ paddingBytes ws i, b = 0)

/-! ### Ownership of the buffers -/

/-- R76, R280: every step keeps the pending bit of a buffer equal to 1 exactly while the buffer is consumed or its
`RX_READY` is held, once. So nothing stays held for a buffer that has been re-armed, and the core reads no buffer but one
that is pending. What of the pending signals is kept, and that a second one adds nothing, is the model's (log 16). -/
def Obligations.PendingBitsFollowTheSignals : Prop :=
  ∀ s t : State, pendingInv s → step s = .next t → pendingInv t

end
end

