-- ==== Sys2Proof/Laws/Codec.lean ====
section
/-! SUPPORT. The laws of the codec's helpers: fields of assembled words, payload bytes, and what the decoder reads from
the words of a ring packet. -/

namespace Sys2Proof

theorem hasWords_iff (ws : List Word) (n : Nat) : hasWords ws n = true ↔ n ≤ ws.length := by
  induction ws generalizing n with
  | nil => cases n <;> simp [hasWords]
  | cons w t ih => cases n <;> simp [hasWords, ih]

/-! ### Fields of words -/

theorem getLsbD_putField {n : Nat} (v : BitVec n) (lo i : Nat) :
    (putField v lo).getLsbD i = (decide (i < 32) && (!decide (i < lo) && v.getLsbD (i - lo))) := by
  rw [putField, BitVec.getLsbD_shiftLeft, BitVec.getLsbD_setWidth]
  by_cases h : i < 32 <;> by_cases h' : i < lo <;> simp [h, h']
  intro _; omega

theorem getLsbD_field (w : Word) (lo n i : Nat) :
    (field w lo n).getLsbD i = (decide (i < n) && w.getLsbD (lo + i)) := by
  rw [field, BitVec.getLsbD_extractLsb']

theorem bitAt_or (v w : Word) (i : Nat) : bitAt (v ||| w) i = (bitAt v i || bitAt w i) := BitVec.getLsbD_or ..

theorem field_or (v w : Word) (lo n : Nat) : field (v ||| w) lo n = field v lo n ||| field w lo n := by
  apply BitVec.eq_of_getLsbD_eq
  intro i hi
  simp only [getLsbD_field, BitVec.getLsbD_or]
  cases decide (i < n) <;> simp

/-- A field read where it was put. -/
theorem field_putField {n : Nat} (v : BitVec n) (lo : Nat) (h : lo + n ≤ 32) : field (putField v lo) lo n = v := by
  apply BitVec.eq_of_getLsbD_eq
  intro i hi
  rw [getLsbD_field, getLsbD_putField]
  have h1 : lo + i < 32 := by omega
  simp [hi, h1]

/-- A field read beside the one that was put. -/
theorem field_putField_disjoint {n m : Nat} (v : BitVec m) (lo lo' : Nat) (h : lo' + m ≤ lo ∨ lo + n ≤ lo') :
    field (putField v lo') lo n = 0 := by
  apply BitVec.eq_of_getLsbD_eq
  intro i hi
  rw [getLsbD_field, getLsbD_putField]
  rcases h with h | h
  · have : v.getLsbD (lo + i - lo') = false := BitVec.getLsbD_of_ge _ _ (by omega)
    simp [this]
  · have : lo + i < lo' := by omega
    simp [this]

theorem bitAt_putField {m : Nat} (v : BitVec m) (lo i : Nat) (h : lo + m ≤ i ∨ i < lo) :
    bitAt (putField v lo) i = false := by
  rw [bitAt, getLsbD_putField]
  rcases h with h | h
  · have : v.getLsbD (i - lo) = false := BitVec.getLsbD_of_ge _ _ (by omega)
    simp [this]
  · simp [h]

theorem bitAt_putBit (b : Bool) (i : Nat) (h : i < 32) : bitAt (putBit b i) i = b := by
  rw [bitAt, putBit, getLsbD_putField]
  simp [h]

theorem bitAt_putBit_ne (b : Bool) (i j : Nat) (h : j ≠ i) : bitAt (putBit b i) j = false :=
  bitAt_putField _ _ _ (by omega)

theorem field_putBit (b : Bool) (i lo n : Nat) (h : i < lo ∨ lo + n ≤ i) : field (putBit b i) lo n = 0 :=
  field_putField_disjoint _ _ _ (by omega)

@[simp] theorem field_zero (lo n : Nat) : field 0#32 lo n = 0#n := by
  apply BitVec.eq_of_getLsbD_eq; intro i hi; simp [getLsbD_field]

@[simp] theorem bitAt_zero (i : Nat) : bitAt 0#32 i = false := by simp [bitAt]

/-! ### Payload bytes -/

theorem wordBytes_wordOfBytes (a b c d : Byte) : wordBytes (wordOfBytes a b c d) = [a, b, c, d] := by
  simp only [wordBytes, wordOfBytes, field_or]
  simp (disch := omega) [field_putField, field_putField_disjoint]

theorem ceil4_add_four (n : Nat) : ceil4 (n + 4) = ceil4 n + 1 := by simp only [ceil4]; omega

theorem packBytes_length (bs : List Byte) : (packBytes bs).length = ceil4 bs.length := by
  induction bs using packBytes.induct with
  | case1 => rfl
  | case2 => simp [packBytes, ceil4]
  | case3 => simp [packBytes, ceil4]
  | case4 => simp [packBytes, ceil4]
  | case5 a b c d t ih => simp only [packBytes, List.length_cons, ih, ceil4]; omega

/-- Unpacking packed bytes gives them back, whatever follows them. -/
theorem unpackBytes_packBytes (bs : List Byte) (rest : List Word) :
    unpackBytes bs.length (packBytes bs ++ rest) = bs := by
  have key : ((packBytes bs).flatMap wordBytes).take bs.length = bs := by
    induction bs using packBytes.induct with
    | case1 => rfl
    | case2 => simp [packBytes, wordBytes_wordOfBytes]
    | case3 => simp [packBytes, wordBytes_wordOfBytes]
    | case4 => simp [packBytes, wordBytes_wordOfBytes]
    | case5 a b c d t ih => simp [packBytes, wordBytes_wordOfBytes, ih]
  rw [unpackBytes, List.take_append_of_le_length (packBytes_length bs).ge,
    List.take_of_length_le (packBytes_length bs).le, key]

/-- The bytes of a word put together again. -/
theorem wordOfBytes_fields (w : Word) : wordOfBytes (field w 0 8) (field w 8 8) (field w 16 8) (field w 24 8) = w := by
  apply BitVec.eq_of_getLsbD_eq
  intro i hi
  simp only [wordOfBytes, BitVec.getLsbD_or, getLsbD_putField, getLsbD_field]
  have : i < 8 ∨ (8 ≤ i ∧ i < 16) ∨ (16 ≤ i ∧ i < 24) ∨ 24 ≤ i := by omega
  rcases this with h | h | h | h
  · simp [hi, h, show i < 16 by omega, show i < 24 by omega]
  · simp [hi, h, show ¬ i < 8 by omega, show i < 24 by omega, show i - 8 < 8 by omega, show 8 + (i - 8) = i by omega]
  · simp [hi, h, show ¬ i < 8 by omega, show ¬ i < 16 by omega, show ¬ i - 8 < 8 by omega, show i - 16 < 8 by omega,
      show 16 + (i - 16) = i by omega]
  · simp [hi, show ¬ i < 8 by omega, show ¬ i < 16 by omega, show ¬ i < 24 by omega, show ¬ i - 8 < 8 by omega,
      show ¬ i - 16 < 8 by omega, show i - 24 < 8 by omega, show 24 + (i - 24) = i by omega]

/-! ### The words of a ring packet -/

@[simp] theorem ringWords_length (h : Hdr) (typ : BitVec 4) (w0 w1 : Word) (pl : List Word) :
    (ringWords h typ w0 w1 pl).length = 5 + pl.length := by
  simp only [ringWords, List.length_cons]; omega

/-- `word1` of an assembled ring packet. -/
def ringWord1 (h : Hdr) (typ : BitVec 4) (w1 : Word) : Word := w1 ||| putField h.ch 25 ||| putField typ 28

/-- The `TYPE` of an assembled ring packet. -/
theorem type_ringWord1 (h : Hdr) (typ : BitVec 4) (w1 : Word) (h0 : field w1 28 4 = 0) :
    field (ringWord1 h typ w1) 28 4 = typ := by
  simp only [ringWord1, field_or, h0]
  simp (disch := omega) [field_putField, field_putField_disjoint]

/-- Below the channel and the `TYPE`, `word1` of an assembled ring packet is what was given. -/
theorem field_ringWord1 (h : Hdr) (typ : BitVec 4) (w1 : Word) (lo n : Nat) (hl : lo + n ≤ 25) :
    field (ringWord1 h typ w1) lo n = field w1 lo n := by
  simp only [ringWord1, field_or]
  simp (disch := omega) [field_putField_disjoint]

theorem bitAt_ringWord1 (h : Hdr) (typ : BitVec 4) (w1 : Word) (i : Nat) (hl : i < 25) :
    bitAt (ringWord1 h typ w1) i = bitAt w1 i := by
  simp only [ringWord1, bitAt_or]
  simp (disch := omega) [bitAt_putField]

theorem stamp_halves (ts : Stamp) : (ts.extractLsb' 32 32 : Word) ++ (ts.extractLsb' 0 32 : Word) = ts := by
  apply BitVec.eq_of_getLsbD_eq
  intro i hi
  rw [BitVec.getLsbD_append]
  by_cases h : i < 32
  · simp [h]
  · simp [h, show 32 + (i - 32) = i by omega, show i - 32 < 32 by omega]

/-- The decoder on the words of a ring packet with any declared size `n`: the header comes back with that size, and the
packet is decoded from its words. -/
theorem decodeRing_sized (h : Hdr) (typ : BitVec 4) (w0 w1 : Word) (pl : List Word) {n : Nat} (hs : 5 ≤ n)
    (hb : n ≤ Config.bufWords) (hn : n ≤ 5 + pl.length) (h25 : field w1 25 3 = 0)
    (hl : packetLen n w0 (ringWord1 h typ w1) ≤ 5 + pl.length) :
    decodeRing (BitVec.ofNat 32 n :: (ringWords h typ w0 w1 pl).tail) =
      .ok (decodePacket { h with size := n } w0 (ringWord1 h typ w1) pl) := by
  obtain ⟨k, rfl⟩ : ∃ k, n = k + 5 := ⟨n - 5, by omega⟩
  have hsz : (BitVec.ofNat 32 (k + 5)).toNat = k + 5 := by
    rw [BitVec.toNat_ofNat, Nat.mod_eq_of_lt (by simp only [Config.bufWords] at hb; omega)]
  have hch : field (ringWord1 h typ w1) 25 3 = h.ch := by
    simp only [ringWord1, field_or, h25]
    simp (disch := omega) [field_putField, field_putField_disjoint]
  have hlen : (BitVec.ofNat 32 (k + 5) :: (ringWords h typ w0 w1 pl).tail).length = 5 + pl.length := by
    simp only [List.length_cons, List.length_tail, ringWords_length]; omega
  have h1 := (hasWords_iff (BitVec.ofNat 32 (k + 5) :: (ringWords h typ w0 w1 pl).tail) _).2 (hn.trans_eq hlen.symm)
  have h2 := (hasWords_iff (BitVec.ofNat 32 (k + 5) :: (ringWords h typ w0 w1 pl).tail) _).2 (hl.trans_eq hlen.symm)
  have hhdr : (⟨k + 5, field (ringWord1 h typ w1) 25 3,
      h.ts.extractLsb' 32 32 ++ h.ts.extractLsb' 0 32⟩ : Hdr) = { h with size := k + 5 } := by
    rw [hch, stamp_halves]
  have g0 : (BitVec.ofNat 32 (k + 5) :: (ringWords h typ w0 w1 pl).tail).getD 0 0 = BitVec.ofNat 32 (k + 5) := rfl
  have g1 : (BitVec.ofNat 32 (k + 5) :: (ringWords h typ w0 w1 pl).tail).getD 1 0 = w0 := rfl
  have g2 : (BitVec.ofNat 32 (k + 5) :: (ringWords h typ w0 w1 pl).tail).getD 2 0 = ringWord1 h typ w1 := rfl
  have g3 : (BitVec.ofNat 32 (k + 5) :: (ringWords h typ w0 w1 pl).tail).getD 3 0 = h.ts.extractLsb' 0 32 := rfl
  have g4 : (BitVec.ofNat 32 (k + 5) :: (ringWords h typ w0 w1 pl).tail).getD 4 0 = h.ts.extractLsb' 32 32 := rfl
  have gd : (BitVec.ofNat 32 (k + 5) :: (ringWords h typ w0 w1 pl).tail).drop 5 = pl := rfl
  rw [decodeRing, g0, hsz]
  simp only [g1, g2, g3, g4, gd, h1, h2, Bool.not_true, Bool.false_eq_true, if_false, hhdr]

/-- Words after a packet belong to its payload list only. -/
theorem ringWords_append (h : Hdr) (typ : BitVec 4) (w0 w1 : Word) (pl rest : List Word) :
    ringWords h typ w0 w1 pl ++ rest =
      BitVec.ofNat 32 (5 + pl.length) :: (ringWords h typ w0 w1 (pl ++ rest)).tail := rfl

/-- The decoder on an assembled ring packet: the header comes back, and the packet is decoded from its words. -/
theorem decodeRing_ringWords (h : Hdr) (typ : BitVec 4) (w0 w1 : Word) (pl rest : List Word)
    (hs : h.size = 5 + pl.length) (hb : h.size ≤ Config.bufWords) (h25 : field w1 25 3 = 0)
    (hl : packetLen h.size w0 (ringWord1 h typ w1) ≤ 5 + pl.length) :
    decodeRing (ringWords h typ w0 w1 pl ++ rest) = .ok (decodePacket h w0 (ringWord1 h typ w1) (pl ++ rest)) := by
  rw [ringWords_append, decodeRing_sized h typ w0 w1 (pl ++ rest) (by omega) (hs ▸ hb)
    (by simp only [List.length_append]; omega) h25 (by rw [← hs, List.length_append]; omega), ← hs]

end Sys2Proof
end

