-- ==== Sys2Proof/Laws/State.lean ====
section
/-! SUPPORT. One lemma per field per named update of the state and of a handler's work, all true by definition. -/

namespace Sys2Proof.Machine

/-! ### The two values of a pair -/

@[simp] theorem Pair.get_set_same {α : Type} (p : Pair α) (b : Buf) (v : α) : (p.set b v).get b = v := by
  cases b <;> rfl

theorem Pair.get_set_ne {α : Type} (p : Pair α) (b d : Buf) (v : α) (h : d ≠ b) : (p.set b v).get d = p.get d := by
  cases b <;> cases d <;> first | rfl | exact absurd rfl h

@[simp] theorem Pair.set_set {α : Type} (p : Pair α) (b : Buf) (v w : α) : (p.set b v).set b w = p.set b w := by
  cases b <;> rfl

theorem otherBuf_ne (b : Buf) : otherBuf b ≠ b := by cases b <;> decide

@[simp] theorem Pair.get_set_other {α : Type} (p : Pair α) (b : Buf) (v : α) :
    (p.set b v).get (otherBuf b) = p.get (otherBuf b) := Pair.get_set_ne p b _ v (otherBuf_ne b)

/-! ### A handler's work -/

@[simp] theorem Work.emit_ch (w : Work) (e : Event) : (w.emit e).ch = w.ch := rfl
@[simp] theorem Work.emit_out (w : Work) (e : Event) : (w.emit e).out = w.out ++ [e] := rfl
@[simp] theorem Work.emit_log (w : Work) (e : Event) : (w.emit e).log = w.log := rfl
@[simp] theorem Work.emit_ret (w : Work) (e : Event) : (w.emit e).ret = w.ret := rfl
@[simp] theorem Work.upd_ch (w : Work) (f : Chan → Chan) : (w.upd f).ch = f w.ch := rfl
@[simp] theorem Work.upd_out (w : Work) (f : Chan → Chan) : (w.upd f).out = w.out := rfl
@[simp] theorem Work.upd_log (w : Work) (f : Chan → Chan) : (w.upd f).log = w.log := rfl
@[simp] theorem Work.upd_ret (w : Work) (f : Chan → Chan) : (w.upd f).ret = w.ret := rfl
@[simp] theorem Work.count_ch (w : Work) (f : Counters → Counters) : (w.count f).ch = { w.ch with cnt := f w.ch.cnt } := rfl
@[simp] theorem Work.count_out (w : Work) (f : Counters → Counters) : (w.count f).out = w.out := rfl
@[simp] theorem Work.count_log (w : Work) (f : Counters → Counters) : (w.count f).log = w.log := rfl
@[simp] theorem Work.count_ret (w : Work) (f : Counters → Counters) : (w.count f).ret = w.ret := rfl
@[simp] theorem Work.return_ch (w : Work) (r : Result) : (w.return r).ch = w.ch := rfl
@[simp] theorem Work.return_out (w : Work) (r : Result) : (w.return r).out = w.out := rfl
@[simp] theorem Work.return_log (w : Work) (r : Result) : (w.return r).log = w.log := rfl
@[simp] theorem Work.return_ret (w : Work) (r : Result) : (w.return r).ret = some r := rfl
@[simp] theorem Work.logExc_ch (w : Work) (x : Exc) : (w.logExc x).ch = { w.ch with cnt := x.countChan w.ch.cnt } := rfl
@[simp] theorem Work.logExc_out (w : Work) (x : Exc) : (w.logExc x).out = w.out := rfl
@[simp] theorem Work.logExc_log (w : Work) (x : Exc) : (w.logExc x).log = w.log ++ [x] := rfl
@[simp] theorem Work.logExc_ret (w : Work) (x : Exc) : (w.logExc x).ret = w.ret := rfl
@[simp] theorem Work.start_ch (ch : Chan) : (Work.start ch).ch = ch := rfl
@[simp] theorem Work.start_out (ch : Chan) : (Work.start ch).out = [] := rfl
@[simp] theorem Work.start_log (ch : Chan) : (Work.start ch).log = [] := rfl
@[simp] theorem Work.start_ret (ch : Chan) : (Work.start ch).ret = none := rfl

@[simp] theorem State.ctx_cfg (s : State) (c : Nat) : (s.ctx c).cfg = s.cfg := rfl
@[simp] theorem State.ctx_c (s : State) (c : Nat) : (s.ctx c).c = c := rfl
@[simp] theorem State.ctx_draw (s : State) (c : Nat) : (s.ctx c).draw = s.draw := rfl

/-! ### State.emits -/

@[simp] theorem State.emits_attached (s : State) (es : List Event) : (s.emits es).attached = s.attached := rfl
@[simp] theorem State.emits_cfg (s : State) (es : List Event) : (s.emits es).cfg = s.cfg := rfl
@[simp] theorem State.emits_channels (s : State) (es : List Event) : (s.emits es).channels = s.channels := rfl
@[simp] theorem State.emits_cursor (s : State) (es : List Event) : (s.emits es).cursor = s.cursor := rfl
@[simp] theorem State.emits_notifyBusy (s : State) (es : List Event) : (s.emits es).notifyBusy = s.notifyBusy := rfl
@[simp] theorem State.emits_rxPending (s : State) (es : List Event) : (s.emits es).rxPending = s.rxPending := rfl
@[simp] theorem State.emits_global (s : State) (es : List Event) : (s.emits es).global = s.global := rfl
@[simp] theorem State.emits_mem (s : State) (es : List Event) : (s.emits es).mem = s.mem := rfl
@[simp] theorem State.emits_regs (s : State) (es : List Event) : (s.emits es).regs = s.regs := rfl
@[simp] theorem State.emits_curBuf (s : State) (es : List Event) : (s.emits es).curBuf = s.curBuf := rfl
@[simp] theorem State.emits_held (s : State) (es : List Event) : (s.emits es).held = s.held := rfl
@[simp] theorem State.emits_outbox (s : State) (es : List Event) : (s.emits es).outbox = s.outbox ++ es.flatMap Event.regWrites := rfl
@[simp] theorem State.emits_arrivals (s : State) (es : List Event) : (s.emits es).arrivals = s.arrivals := rfl
@[simp] theorem State.emits_draw (s : State) (es : List Event) : (s.emits es).draw = s.draw := rfl
@[simp] theorem State.emits_freeCount (s : State) (es : List Event) : (s.emits es).freeCount = s.freeCount := rfl
@[simp] theorem State.emits_trace (s : State) (es : List Event) : (s.emits es).trace = s.trace ++ es := rfl
@[simp] theorem State.emits_log (s : State) (es : List Event) : (s.emits es).log = s.log := rfl
@[simp] theorem State.emits_ret (s : State) (es : List Event) : (s.emits es).ret = s.ret := rfl

/-! ### State.commit -/

@[simp] theorem State.commit_attached (s : State) (c : Nat) (w : Work) : (s.commit c w).attached = s.attached := rfl
@[simp] theorem State.commit_cfg (s : State) (c : Nat) (w : Work) : (s.commit c w).cfg = s.cfg := rfl
@[simp] theorem State.commit_channels (s : State) (c : Nat) (w : Work) : (s.commit c w).channels = s.channels.set c w.ch := rfl
@[simp] theorem State.commit_cursor (s : State) (c : Nat) (w : Work) : (s.commit c w).cursor = s.cursor := rfl
@[simp] theorem State.commit_notifyBusy (s : State) (c : Nat) (w : Work) : (s.commit c w).notifyBusy = s.notifyBusy := rfl
@[simp] theorem State.commit_rxPending (s : State) (c : Nat) (w : Work) : (s.commit c w).rxPending = s.rxPending := rfl
@[simp] theorem State.commit_global (s : State) (c : Nat) (w : Work) : (s.commit c w).global = s.global := rfl
@[simp] theorem State.commit_mem (s : State) (c : Nat) (w : Work) : (s.commit c w).mem = s.mem := rfl
@[simp] theorem State.commit_regs (s : State) (c : Nat) (w : Work) : (s.commit c w).regs = s.regs := rfl
@[simp] theorem State.commit_curBuf (s : State) (c : Nat) (w : Work) : (s.commit c w).curBuf = s.curBuf := rfl
@[simp] theorem State.commit_held (s : State) (c : Nat) (w : Work) : (s.commit c w).held = s.held := rfl
@[simp] theorem State.commit_outbox (s : State) (c : Nat) (w : Work) : (s.commit c w).outbox = s.outbox ++ w.out.flatMap Event.regWrites := rfl
@[simp] theorem State.commit_arrivals (s : State) (c : Nat) (w : Work) : (s.commit c w).arrivals = s.arrivals := rfl
@[simp] theorem State.commit_draw (s : State) (c : Nat) (w : Work) : (s.commit c w).draw = s.draw := rfl
@[simp] theorem State.commit_freeCount (s : State) (c : Nat) (w : Work) : (s.commit c w).freeCount = s.freeCount := rfl
@[simp] theorem State.commit_trace (s : State) (c : Nat) (w : Work) : (s.commit c w).trace = s.trace ++ w.out := rfl
@[simp] theorem State.commit_log (s : State) (c : Nat) (w : Work) : (s.commit c w).log = s.log ++ w.log := rfl
@[simp] theorem State.commit_ret (s : State) (c : Nat) (w : Work) : (s.commit c w).ret = s.ret := rfl

/-! ### State.takeException -/

@[simp] theorem State.takeException_attached (s : State) (x : Exc) : (s.takeException x).attached = s.attached := rfl
@[simp] theorem State.takeException_cfg (s : State) (x : Exc) : (s.takeException x).cfg = s.cfg := rfl
@[simp] theorem State.takeException_channels (s : State) (x : Exc) : (s.takeException x).channels = s.channels := rfl
@[simp] theorem State.takeException_cursor (s : State) (x : Exc) : (s.takeException x).cursor = s.cursor := rfl
@[simp] theorem State.takeException_notifyBusy (s : State) (x : Exc) : (s.takeException x).notifyBusy = s.notifyBusy := rfl
@[simp] theorem State.takeException_rxPending (s : State) (x : Exc) : (s.takeException x).rxPending = s.rxPending := rfl
@[simp] theorem State.takeException_global (s : State) (x : Exc) : (s.takeException x).global = x.countGlobal s.global := rfl
@[simp] theorem State.takeException_mem (s : State) (x : Exc) : (s.takeException x).mem = s.mem := rfl
@[simp] theorem State.takeException_regs (s : State) (x : Exc) : (s.takeException x).regs = s.regs := rfl
@[simp] theorem State.takeException_curBuf (s : State) (x : Exc) : (s.takeException x).curBuf = s.curBuf := rfl
@[simp] theorem State.takeException_held (s : State) (x : Exc) : (s.takeException x).held = s.held := rfl
@[simp] theorem State.takeException_outbox (s : State) (x : Exc) : (s.takeException x).outbox = s.outbox := rfl
@[simp] theorem State.takeException_arrivals (s : State) (x : Exc) : (s.takeException x).arrivals = s.arrivals := rfl
@[simp] theorem State.takeException_draw (s : State) (x : Exc) : (s.takeException x).draw = s.draw := rfl
@[simp] theorem State.takeException_freeCount (s : State) (x : Exc) : (s.takeException x).freeCount = s.freeCount := rfl
@[simp] theorem State.takeException_trace (s : State) (x : Exc) : (s.takeException x).trace = s.trace := rfl
@[simp] theorem State.takeException_log (s : State) (x : Exc) : (s.takeException x).log = s.log ++ [x] := rfl
@[simp] theorem State.takeException_ret (s : State) (x : Exc) : (s.takeException x).ret = s.ret := rfl

/-! ### State.returns -/

@[simp] theorem State.returns_attached (s : State) (r : Result) : (s.returns r).attached = s.attached := rfl
@[simp] theorem State.returns_cfg (s : State) (r : Result) : (s.returns r).cfg = s.cfg := rfl
@[simp] theorem State.returns_channels (s : State) (r : Result) : (s.returns r).channels = s.channels := rfl
@[simp] theorem State.returns_cursor (s : State) (r : Result) : (s.returns r).cursor = s.cursor := rfl
@[simp] theorem State.returns_notifyBusy (s : State) (r : Result) : (s.returns r).notifyBusy = s.notifyBusy := rfl
@[simp] theorem State.returns_rxPending (s : State) (r : Result) : (s.returns r).rxPending = s.rxPending := rfl
@[simp] theorem State.returns_global (s : State) (r : Result) : (s.returns r).global = s.global := rfl
@[simp] theorem State.returns_mem (s : State) (r : Result) : (s.returns r).mem = s.mem := rfl
@[simp] theorem State.returns_regs (s : State) (r : Result) : (s.returns r).regs = s.regs := rfl
@[simp] theorem State.returns_curBuf (s : State) (r : Result) : (s.returns r).curBuf = s.curBuf := rfl
@[simp] theorem State.returns_held (s : State) (r : Result) : (s.returns r).held = s.held := rfl
@[simp] theorem State.returns_outbox (s : State) (r : Result) : (s.returns r).outbox = s.outbox := rfl
@[simp] theorem State.returns_arrivals (s : State) (r : Result) : (s.returns r).arrivals = s.arrivals := rfl
@[simp] theorem State.returns_draw (s : State) (r : Result) : (s.returns r).draw = s.draw := rfl
@[simp] theorem State.returns_freeCount (s : State) (r : Result) : (s.returns r).freeCount = s.freeCount := rfl
@[simp] theorem State.returns_trace (s : State) (r : Result) : (s.returns r).trace = s.trace := rfl
@[simp] theorem State.returns_log (s : State) (r : Result) : (s.returns r).log = s.log := rfl
@[simp] theorem State.returns_ret (s : State) (r : Result) : (s.returns r).ret = some r := rfl

/-! ### State.startConsume -/

@[simp] theorem State.startConsume_attached (s : State) (b : Buf) : (s.startConsume b).attached = s.attached := rfl
@[simp] theorem State.startConsume_cfg (s : State) (b : Buf) : (s.startConsume b).cfg = s.cfg := rfl
@[simp] theorem State.startConsume_channels (s : State) (b : Buf) : (s.startConsume b).channels = s.channels := rfl
@[simp] theorem State.startConsume_cursor (s : State) (b : Buf) : (s.startConsume b).cursor = s.cursor.set b 0 := rfl
@[simp] theorem State.startConsume_notifyBusy (s : State) (b : Buf) : (s.startConsume b).notifyBusy = true := rfl
@[simp] theorem State.startConsume_rxPending (s : State) (b : Buf) : (s.startConsume b).rxPending = s.rxPending.set b true := rfl
@[simp] theorem State.startConsume_global (s : State) (b : Buf) : (s.startConsume b).global = s.global := rfl
@[simp] theorem State.startConsume_mem (s : State) (b : Buf) : (s.startConsume b).mem = s.mem := rfl
@[simp] theorem State.startConsume_regs (s : State) (b : Buf) : (s.startConsume b).regs = s.regs := rfl
@[simp] theorem State.startConsume_curBuf (s : State) (b : Buf) : (s.startConsume b).curBuf = b := rfl
@[simp] theorem State.startConsume_held (s : State) (b : Buf) : (s.startConsume b).held = s.held := rfl
@[simp] theorem State.startConsume_outbox (s : State) (b : Buf) : (s.startConsume b).outbox = s.outbox := rfl
@[simp] theorem State.startConsume_arrivals (s : State) (b : Buf) : (s.startConsume b).arrivals = s.arrivals := rfl
@[simp] theorem State.startConsume_draw (s : State) (b : Buf) : (s.startConsume b).draw = s.draw := rfl
@[simp] theorem State.startConsume_freeCount (s : State) (b : Buf) : (s.startConsume b).freeCount = s.freeCount := rfl
@[simp] theorem State.startConsume_trace (s : State) (b : Buf) : (s.startConsume b).trace = s.trace := rfl
@[simp] theorem State.startConsume_log (s : State) (b : Buf) : (s.startConsume b).log = s.log := rfl
@[simp] theorem State.startConsume_ret (s : State) (b : Buf) : (s.startConsume b).ret = s.ret := rfl

/-! ### State.ackNotification -/

@[simp] theorem State.ackNotification_attached (s : State) : s.ackNotification.attached = s.attached := rfl
@[simp] theorem State.ackNotification_cfg (s : State) : s.ackNotification.cfg = s.cfg := rfl
@[simp] theorem State.ackNotification_channels (s : State) : s.ackNotification.channels = s.channels := rfl
@[simp] theorem State.ackNotification_cursor (s : State) : s.ackNotification.cursor = s.cursor := rfl
@[simp] theorem State.ackNotification_notifyBusy (s : State) : s.ackNotification.notifyBusy = false := rfl
@[simp] theorem State.ackNotification_rxPending (s : State) : s.ackNotification.rxPending = s.rxPending := rfl
@[simp] theorem State.ackNotification_global (s : State) : s.ackNotification.global = s.global := rfl
@[simp] theorem State.ackNotification_mem (s : State) : s.ackNotification.mem = s.mem := rfl
@[simp] theorem State.ackNotification_regs (s : State) : s.ackNotification.regs = s.regs := rfl
@[simp] theorem State.ackNotification_curBuf (s : State) : s.ackNotification.curBuf = s.curBuf := rfl
@[simp] theorem State.ackNotification_held (s : State) : s.ackNotification.held = s.held := rfl
@[simp] theorem State.ackNotification_outbox (s : State) : s.ackNotification.outbox = s.outbox := rfl
@[simp] theorem State.ackNotification_arrivals (s : State) : s.ackNotification.arrivals = s.arrivals := rfl
@[simp] theorem State.ackNotification_draw (s : State) : s.ackNotification.draw = s.draw := rfl
@[simp] theorem State.ackNotification_freeCount (s : State) : s.ackNotification.freeCount = s.freeCount := rfl
@[simp] theorem State.ackNotification_trace (s : State) : s.ackNotification.trace = s.trace := rfl
@[simp] theorem State.ackNotification_log (s : State) : s.ackNotification.log = s.log := rfl
@[simp] theorem State.ackNotification_ret (s : State) : s.ackNotification.ret = s.ret := rfl

/-! ### State.endConsume -/

@[simp] theorem State.endConsume_attached (s : State) : s.endConsume.attached = s.attached := rfl
@[simp] theorem State.endConsume_cfg (s : State) : s.endConsume.cfg = s.cfg := rfl
@[simp] theorem State.endConsume_channels (s : State) : s.endConsume.channels = s.channels := rfl
@[simp] theorem State.endConsume_cursor (s : State) : s.endConsume.cursor = s.cursor.set s.curBuf 0 := rfl
@[simp] theorem State.endConsume_notifyBusy (s : State) : s.endConsume.notifyBusy = false := rfl
@[simp] theorem State.endConsume_rxPending (s : State) : s.endConsume.rxPending = s.rxPending.set s.curBuf false := rfl
@[simp] theorem State.endConsume_global (s : State) : s.endConsume.global = s.global := rfl
@[simp] theorem State.endConsume_mem (s : State) : s.endConsume.mem = s.mem := rfl
@[simp] theorem State.endConsume_regs (s : State) : s.endConsume.regs = s.regs := rfl
@[simp] theorem State.endConsume_curBuf (s : State) : s.endConsume.curBuf = s.curBuf := rfl
@[simp] theorem State.endConsume_held (s : State) : s.endConsume.held = s.held := rfl
@[simp] theorem State.endConsume_outbox (s : State) : s.endConsume.outbox = s.outbox := List.append_nil _
@[simp] theorem State.endConsume_arrivals (s : State) : s.endConsume.arrivals = s.arrivals := rfl
@[simp] theorem State.endConsume_draw (s : State) : s.endConsume.draw = s.draw := rfl
@[simp] theorem State.endConsume_freeCount (s : State) : s.endConsume.freeCount = s.freeCount := rfl
@[simp] theorem State.endConsume_trace (s : State) : s.endConsume.trace = s.trace ++ [.armDma s.curBuf] := rfl
@[simp] theorem State.endConsume_log (s : State) : s.endConsume.log = s.log := rfl
@[simp] theorem State.endConsume_ret (s : State) : s.endConsume.ret = s.ret := rfl

/-! ### State.abortConsume -/

@[simp] theorem State.abortConsume_attached (s : State) (x : Exc) : (s.abortConsume x).attached = s.attached := rfl
@[simp] theorem State.abortConsume_cfg (s : State) (x : Exc) : (s.abortConsume x).cfg = s.cfg := rfl
@[simp] theorem State.abortConsume_channels (s : State) (x : Exc) : (s.abortConsume x).channels = s.channels := rfl
@[simp] theorem State.abortConsume_cursor (s : State) (x : Exc) : (s.abortConsume x).cursor = s.cursor.set s.curBuf 0 := rfl
@[simp] theorem State.abortConsume_notifyBusy (s : State) (x : Exc) : (s.abortConsume x).notifyBusy = false := rfl
@[simp] theorem State.abortConsume_rxPending (s : State) (x : Exc) : (s.abortConsume x).rxPending = s.rxPending.set s.curBuf false := rfl
@[simp] theorem State.abortConsume_global (s : State) (x : Exc) : (s.abortConsume x).global = x.countGlobal s.global := rfl
@[simp] theorem State.abortConsume_mem (s : State) (x : Exc) : (s.abortConsume x).mem = s.mem := rfl
@[simp] theorem State.abortConsume_regs (s : State) (x : Exc) : (s.abortConsume x).regs = s.regs := rfl
@[simp] theorem State.abortConsume_curBuf (s : State) (x : Exc) : (s.abortConsume x).curBuf = s.curBuf := rfl
@[simp] theorem State.abortConsume_held (s : State) (x : Exc) : (s.abortConsume x).held = s.held := rfl
@[simp] theorem State.abortConsume_outbox (s : State) (x : Exc) : (s.abortConsume x).outbox = s.outbox := List.append_nil _
@[simp] theorem State.abortConsume_arrivals (s : State) (x : Exc) : (s.abortConsume x).arrivals = s.arrivals := rfl
@[simp] theorem State.abortConsume_draw (s : State) (x : Exc) : (s.abortConsume x).draw = s.draw := rfl
@[simp] theorem State.abortConsume_freeCount (s : State) (x : Exc) : (s.abortConsume x).freeCount = s.freeCount := rfl
@[simp] theorem State.abortConsume_trace (s : State) (x : Exc) : (s.abortConsume x).trace = s.trace ++ [.armDma s.curBuf] := rfl
@[simp] theorem State.abortConsume_log (s : State) (x : Exc) : (s.abortConsume x).log = s.log ++ [x] := rfl
@[simp] theorem State.abortConsume_ret (s : State) (x : Exc) : (s.abortConsume x).ret = s.ret := rfl

/-! ### State.advance -/

@[simp] theorem State.advance_attached (s : State) (n : Nat) : (s.advance n).attached = s.attached := rfl
@[simp] theorem State.advance_cfg (s : State) (n : Nat) : (s.advance n).cfg = s.cfg := rfl
@[simp] theorem State.advance_channels (s : State) (n : Nat) : (s.advance n).channels = s.channels := rfl
@[simp] theorem State.advance_cursor (s : State) (n : Nat) : (s.advance n).cursor = s.cursor.set s.curBuf (s.cursor.get s.curBuf + n) := rfl
@[simp] theorem State.advance_notifyBusy (s : State) (n : Nat) : (s.advance n).notifyBusy = s.notifyBusy := rfl
@[simp] theorem State.advance_rxPending (s : State) (n : Nat) : (s.advance n).rxPending = s.rxPending := rfl
@[simp] theorem State.advance_global (s : State) (n : Nat) : (s.advance n).global = s.global := rfl
@[simp] theorem State.advance_mem (s : State) (n : Nat) : (s.advance n).mem = s.mem := rfl
@[simp] theorem State.advance_regs (s : State) (n : Nat) : (s.advance n).regs = s.regs := rfl
@[simp] theorem State.advance_curBuf (s : State) (n : Nat) : (s.advance n).curBuf = s.curBuf := rfl
@[simp] theorem State.advance_held (s : State) (n : Nat) : (s.advance n).held = s.held := rfl
@[simp] theorem State.advance_outbox (s : State) (n : Nat) : (s.advance n).outbox = s.outbox := rfl
@[simp] theorem State.advance_arrivals (s : State) (n : Nat) : (s.advance n).arrivals = s.arrivals := rfl
@[simp] theorem State.advance_draw (s : State) (n : Nat) : (s.advance n).draw = s.draw := rfl
@[simp] theorem State.advance_freeCount (s : State) (n : Nat) : (s.advance n).freeCount = s.freeCount := rfl
@[simp] theorem State.advance_trace (s : State) (n : Nat) : (s.advance n).trace = s.trace := rfl
@[simp] theorem State.advance_log (s : State) (n : Nat) : (s.advance n).log = s.log := rfl
@[simp] theorem State.advance_ret (s : State) (n : Nat) : (s.advance n).ret = s.ret := rfl

/-! ### State.updRegs -/

@[simp] theorem State.updRegs_attached (s : State) (c : Nat) (f : CtlRegs → CtlRegs) : (s.updRegs c f).attached = s.attached := rfl
@[simp] theorem State.updRegs_cfg (s : State) (c : Nat) (f : CtlRegs → CtlRegs) : (s.updRegs c f).cfg = s.cfg := rfl
@[simp] theorem State.updRegs_channels (s : State) (c : Nat) (f : CtlRegs → CtlRegs) : (s.updRegs c f).channels = s.channels := rfl
@[simp] theorem State.updRegs_cursor (s : State) (c : Nat) (f : CtlRegs → CtlRegs) : (s.updRegs c f).cursor = s.cursor := rfl
@[simp] theorem State.updRegs_notifyBusy (s : State) (c : Nat) (f : CtlRegs → CtlRegs) : (s.updRegs c f).notifyBusy = s.notifyBusy := rfl
@[simp] theorem State.updRegs_rxPending (s : State) (c : Nat) (f : CtlRegs → CtlRegs) : (s.updRegs c f).rxPending = s.rxPending := rfl
@[simp] theorem State.updRegs_global (s : State) (c : Nat) (f : CtlRegs → CtlRegs) : (s.updRegs c f).global = s.global := rfl
@[simp] theorem State.updRegs_mem (s : State) (c : Nat) (f : CtlRegs → CtlRegs) : (s.updRegs c f).mem = s.mem := rfl
@[simp] theorem State.updRegs_regs (s : State) (c : Nat) (f : CtlRegs → CtlRegs) : (s.updRegs c f).regs = s.regs.modify c f := rfl
@[simp] theorem State.updRegs_curBuf (s : State) (c : Nat) (f : CtlRegs → CtlRegs) : (s.updRegs c f).curBuf = s.curBuf := rfl
@[simp] theorem State.updRegs_held (s : State) (c : Nat) (f : CtlRegs → CtlRegs) : (s.updRegs c f).held = s.held := rfl
@[simp] theorem State.updRegs_outbox (s : State) (c : Nat) (f : CtlRegs → CtlRegs) : (s.updRegs c f).outbox = s.outbox := rfl
@[simp] theorem State.updRegs_arrivals (s : State) (c : Nat) (f : CtlRegs → CtlRegs) : (s.updRegs c f).arrivals = s.arrivals := rfl
@[simp] theorem State.updRegs_draw (s : State) (c : Nat) (f : CtlRegs → CtlRegs) : (s.updRegs c f).draw = s.draw := rfl
@[simp] theorem State.updRegs_freeCount (s : State) (c : Nat) (f : CtlRegs → CtlRegs) : (s.updRegs c f).freeCount = s.freeCount := rfl
@[simp] theorem State.updRegs_trace (s : State) (c : Nat) (f : CtlRegs → CtlRegs) : (s.updRegs c f).trace = s.trace := rfl
@[simp] theorem State.updRegs_log (s : State) (c : Nat) (f : CtlRegs → CtlRegs) : (s.updRegs c f).log = s.log := rfl
@[simp] theorem State.updRegs_ret (s : State) (c : Nat) (f : CtlRegs → CtlRegs) : (s.updRegs c f).ret = s.ret := rfl

/-! ### State.hold -/

@[simp] theorem State.hold_attached (s : State) (i : Instr) : (s.hold i).attached = s.attached := rfl
@[simp] theorem State.hold_cfg (s : State) (i : Instr) : (s.hold i).cfg = s.cfg := rfl
@[simp] theorem State.hold_channels (s : State) (i : Instr) : (s.hold i).channels = s.channels := rfl
@[simp] theorem State.hold_cursor (s : State) (i : Instr) : (s.hold i).cursor = s.cursor := rfl
@[simp] theorem State.hold_notifyBusy (s : State) (i : Instr) : (s.hold i).notifyBusy = s.notifyBusy := rfl
@[simp] theorem State.hold_rxPending (s : State) (i : Instr) : (s.hold i).rxPending = s.rxPending := rfl
@[simp] theorem State.hold_global (s : State) (i : Instr) : (s.hold i).global = s.global := rfl
@[simp] theorem State.hold_mem (s : State) (i : Instr) : (s.hold i).mem = s.mem := rfl
@[simp] theorem State.hold_regs (s : State) (i : Instr) : (s.hold i).regs = s.regs := rfl
@[simp] theorem State.hold_curBuf (s : State) (i : Instr) : (s.hold i).curBuf = s.curBuf := rfl
@[simp] theorem State.hold_held (s : State) (i : Instr) : (s.hold i).held = s.held ++ [i] := rfl
@[simp] theorem State.hold_outbox (s : State) (i : Instr) : (s.hold i).outbox = s.outbox := rfl
@[simp] theorem State.hold_arrivals (s : State) (i : Instr) : (s.hold i).arrivals = s.arrivals := rfl
@[simp] theorem State.hold_draw (s : State) (i : Instr) : (s.hold i).draw = s.draw := rfl
@[simp] theorem State.hold_freeCount (s : State) (i : Instr) : (s.hold i).freeCount = s.freeCount := rfl
@[simp] theorem State.hold_trace (s : State) (i : Instr) : (s.hold i).trace = s.trace := rfl
@[simp] theorem State.hold_log (s : State) (i : Instr) : (s.hold i).log = s.log := rfl
@[simp] theorem State.hold_ret (s : State) (i : Instr) : (s.hold i).ret = s.ret := rfl

/-! ### State.unhold -/

@[simp] theorem State.unhold_attached (s : State) (b : Buf) : (s.unhold b).attached = s.attached := rfl
@[simp] theorem State.unhold_cfg (s : State) (b : Buf) : (s.unhold b).cfg = s.cfg := rfl
@[simp] theorem State.unhold_channels (s : State) (b : Buf) : (s.unhold b).channels = s.channels := rfl
@[simp] theorem State.unhold_cursor (s : State) (b : Buf) : (s.unhold b).cursor = s.cursor := rfl
@[simp] theorem State.unhold_notifyBusy (s : State) (b : Buf) : (s.unhold b).notifyBusy = s.notifyBusy := rfl
@[simp] theorem State.unhold_rxPending (s : State) (b : Buf) : (s.unhold b).rxPending = s.rxPending := rfl
@[simp] theorem State.unhold_global (s : State) (b : Buf) : (s.unhold b).global = s.global := rfl
@[simp] theorem State.unhold_mem (s : State) (b : Buf) : (s.unhold b).mem = s.mem := rfl
@[simp] theorem State.unhold_regs (s : State) (b : Buf) : (s.unhold b).regs = s.regs := rfl
@[simp] theorem State.unhold_curBuf (s : State) (b : Buf) : (s.unhold b).curBuf = s.curBuf := rfl
@[simp] theorem State.unhold_held (s : State) (b : Buf) : (s.unhold b).held = s.held.filter fun i => i ≠ .rxReady b := rfl
@[simp] theorem State.unhold_outbox (s : State) (b : Buf) : (s.unhold b).outbox = s.outbox := rfl
@[simp] theorem State.unhold_arrivals (s : State) (b : Buf) : (s.unhold b).arrivals = s.arrivals := rfl
@[simp] theorem State.unhold_draw (s : State) (b : Buf) : (s.unhold b).draw = s.draw := rfl
@[simp] theorem State.unhold_freeCount (s : State) (b : Buf) : (s.unhold b).freeCount = s.freeCount := rfl
@[simp] theorem State.unhold_trace (s : State) (b : Buf) : (s.unhold b).trace = s.trace := rfl
@[simp] theorem State.unhold_log (s : State) (b : Buf) : (s.unhold b).log = s.log := rfl
@[simp] theorem State.unhold_ret (s : State) (b : Buf) : (s.unhold b).ret = s.ret := rfl

/-! ### State.drawFree -/

@[simp] theorem State.drawFree_attached (s : State) : s.drawFree.attached = s.attached := rfl
@[simp] theorem State.drawFree_cfg (s : State) : s.drawFree.cfg = s.cfg := rfl
@[simp] theorem State.drawFree_channels (s : State) : s.drawFree.channels = s.channels := rfl
@[simp] theorem State.drawFree_cursor (s : State) : s.drawFree.cursor = s.cursor := rfl
@[simp] theorem State.drawFree_notifyBusy (s : State) : s.drawFree.notifyBusy = s.notifyBusy := rfl
@[simp] theorem State.drawFree_rxPending (s : State) : s.drawFree.rxPending = s.rxPending := rfl
@[simp] theorem State.drawFree_global (s : State) : s.drawFree.global = s.global := rfl
@[simp] theorem State.drawFree_mem (s : State) : s.drawFree.mem = s.mem := rfl
@[simp] theorem State.drawFree_regs (s : State) : s.drawFree.regs = s.regs := rfl
@[simp] theorem State.drawFree_curBuf (s : State) : s.drawFree.curBuf = s.curBuf := rfl
@[simp] theorem State.drawFree_held (s : State) : s.drawFree.held = s.held := rfl
@[simp] theorem State.drawFree_outbox (s : State) : s.drawFree.outbox = s.outbox := rfl
@[simp] theorem State.drawFree_arrivals (s : State) : s.drawFree.arrivals = s.arrivals := rfl
@[simp] theorem State.drawFree_draw (s : State) : s.drawFree.draw = Config.freeDraw s.freeCount := rfl
@[simp] theorem State.drawFree_freeCount (s : State) : s.drawFree.freeCount = s.freeCount + 1 := rfl
@[simp] theorem State.drawFree_trace (s : State) : s.drawFree.trace = s.trace := rfl
@[simp] theorem State.drawFree_log (s : State) : s.drawFree.log = s.log := rfl
@[simp] theorem State.drawFree_ret (s : State) : s.drawFree.ret = s.ret := rfl

/-! ### State.attachWith -/

@[simp] theorem State.attachWith_attached (s : State) (cfg : Cfg) : (s.attachWith cfg).attached = true := rfl
@[simp] theorem State.attachWith_cfg (s : State) (cfg : Cfg) : (s.attachWith cfg).cfg = cfg := rfl
@[simp] theorem State.attachWith_channels (s : State) (cfg : Cfg) : (s.attachWith cfg).channels = attachChannels cfg s.freeCount := rfl
@[simp] theorem State.attachWith_cursor (s : State) (cfg : Cfg) : (s.attachWith cfg).cursor = ⟨0, 0⟩ := rfl
@[simp] theorem State.attachWith_notifyBusy (s : State) (cfg : Cfg) : (s.attachWith cfg).notifyBusy = false := rfl
@[simp] theorem State.attachWith_rxPending (s : State) (cfg : Cfg) : (s.attachWith cfg).rxPending = ⟨false, false⟩ := rfl
@[simp] theorem State.attachWith_global (s : State) (cfg : Cfg) : (s.attachWith cfg).global = zeroGlobal := rfl
@[simp] theorem State.attachWith_mem (s : State) (cfg : Cfg) : (s.attachWith cfg).mem = s.mem := rfl
@[simp] theorem State.attachWith_regs (s : State) (cfg : Cfg) : (s.attachWith cfg).regs = s.regs := rfl
@[simp] theorem State.attachWith_curBuf (s : State) (cfg : Cfg) : (s.attachWith cfg).curBuf = .b0 := rfl
@[simp] theorem State.attachWith_held (s : State) (cfg : Cfg) : (s.attachWith cfg).held = [] := rfl
@[simp] theorem State.attachWith_outbox (s : State) (cfg : Cfg) : (s.attachWith cfg).outbox = s.outbox := rfl
@[simp] theorem State.attachWith_arrivals (s : State) (cfg : Cfg) : (s.attachWith cfg).arrivals = s.arrivals := rfl
@[simp] theorem State.attachWith_draw (s : State) (cfg : Cfg) : (s.attachWith cfg).draw = s.draw := rfl
@[simp] theorem State.attachWith_freeCount (s : State) (cfg : Cfg) : (s.attachWith cfg).freeCount = s.freeCount + cfg.n * cfg.k := rfl
@[simp] theorem State.attachWith_trace (s : State) (cfg : Cfg) : (s.attachWith cfg).trace = s.trace := rfl
@[simp] theorem State.attachWith_log (s : State) (cfg : Cfg) : (s.attachWith cfg).log = s.log := rfl
@[simp] theorem State.attachWith_ret (s : State) (cfg : Cfg) : (s.attachWith cfg).ret = some .ok := rfl

end Sys2Proof.Machine
end

