-- ==== Sys2Proof/Laws/Memory.lean ====
section
/-! SUPPORT. The laws of memory: a read after a write, and that every memory operation keeps the canonical form. -/

namespace Sys2Proof.Machine

theorem memWf_nil : memWf [] := by simp [memWf]

theorem memWf_tail {x : Host.Cell} {t : List Host.Cell} (h : memWf (x :: t)) : memWf t :=
  ⟨(List.pairwise_cons.1 h.1).2, fun y hy => h.2 y (List.mem_cons_of_mem _ hy)⟩

/-- Below the first listed address nothing is listed. -/
theorem readByte_of_lt {m : List Host.Cell} {x : Nat} (h : ∀ y ∈ m, x < y.1) : readByte m x = unlistedByte := by
  induction m with
  | nil => rfl
  | cons y t ih =>
    have hy := h y (List.mem_cons_self ..)
    rw [readByte, if_neg (by omega), ih fun z hz => h z (List.mem_cons_of_mem _ hz)]

theorem readByte_writeByte_same {m : List Host.Cell} (h : memWf m) (x : Nat) (v : Byte) :
    readByte (writeByte m x v) x = v := by
  induction m with
  | nil => by_cases hv : v = unlistedByte <;> simp [writeByte, readByte, hv]
  | cons y t ih =>
    obtain ⟨a, w⟩ := y
    have hlt : ∀ z ∈ t, a < z.1 := (List.pairwise_cons.1 h.1).1
    simp only [writeByte]
    split
    · next hxa =>
      split
      · next hv =>
        rw [hv]
        exact readByte_of_lt (by
          intro z hz
          rcases List.mem_cons.1 hz with rfl | hz
          · exact hxa
          · exact Nat.lt_trans hxa (hlt z hz))
      · simp [readByte]
    · split
      · next hxa =>
        subst hxa
        split
        · next hv => rw [hv]; exact readByte_of_lt hlt
        · simp [readByte]
      · next hne => rw [readByte, if_neg (by omega), ih (memWf_tail h)]

theorem readByte_writeByte_ne (m : List Host.Cell) {x y : Nat} (v : Byte) (hne : y ≠ x) :
    readByte (writeByte m x v) y = readByte m y := by
  induction m with
  | nil => by_cases hv : v = unlistedByte <;> simp [writeByte, readByte, hv, Ne.symm hne]
  | cons c t ih =>
    obtain ⟨a, w⟩ := c
    simp only [writeByte]
    split
    · split
      · rfl
      · rw [readByte, if_neg (Ne.symm hne)]
    · split
      · next hxa =>
        subst hxa
        split
        · rw [readByte, if_neg (Ne.symm hne)]
        · rw [readByte, readByte, if_neg (Ne.symm hne), if_neg (Ne.symm hne)]
      · rw [readByte, readByte, ih]

/-- What a written memory lists: the written cell or a cell of before. -/
theorem mem_writeByte {m : List Host.Cell} {x : Nat} {v : Byte} {z : Host.Cell} (h : z ∈ writeByte m x v) :
    (z = (x, v) ∧ v ≠ unlistedByte) ∨ z ∈ m := by
  induction m with
  | nil =>
    simp only [writeByte] at h
    split at h
    · cases h
    · next hv => exact .inl ⟨List.mem_singleton.1 h, hv⟩
  | cons c t ih =>
    obtain ⟨a, w⟩ := c
    simp only [writeByte] at h
    split at h
    · split at h
      · exact .inr h
      · next hv =>
        rcases List.mem_cons.1 h with rfl | h
        · exact .inl ⟨rfl, hv⟩
        · exact .inr h
    · split at h
      · split at h
        · exact .inr (List.mem_cons_of_mem _ h)
        · next hv =>
          rcases List.mem_cons.1 h with rfl | h
          · exact .inl ⟨rfl, hv⟩
          · exact .inr (List.mem_cons_of_mem _ h)
      · rcases List.mem_cons.1 h with rfl | h
        · exact .inr (List.mem_cons_self ..)
        · rcases ih h with h | h
          · exact .inl h
          · exact .inr (List.mem_cons_of_mem _ h)

theorem writeByte_sorted {m : List Host.Cell} (h : m.Pairwise fun x y => x.1 < y.1) (x : Nat) (v : Byte) :
    (writeByte m x v).Pairwise fun x y => x.1 < y.1 := by
  induction m with
  | nil => simp only [writeByte]; split <;> simp
  | cons c t ih =>
    obtain ⟨a, w⟩ := c
    obtain ⟨hlt, ht⟩ := List.pairwise_cons.1 h
    simp only [writeByte]
    split
    · next hxa =>
      split
      · exact h
      · refine List.pairwise_cons.2 ⟨fun z hz => ?_, h⟩
        rcases List.mem_cons.1 hz with rfl | hz
        · exact hxa
        · exact Nat.lt_trans hxa (hlt z hz)
    · split
      · next hxa =>
        subst hxa
        split
        · exact ht
        · exact List.pairwise_cons.2 ⟨hlt, ht⟩
      · next hnl hne =>
        refine List.pairwise_cons.2 ⟨fun z hz => ?_, ih ht⟩
        rcases mem_writeByte hz with ⟨rfl, -⟩ | hz
        · show a < x; omega
        · exact hlt z hz

theorem memWf_writeByte {m : List Host.Cell} (h : memWf m) {x : Nat} (hx : x < memSize) (v : Byte) :
    memWf (writeByte m x v) := by
  refine ⟨writeByte_sorted h.1 x v, fun z hz => ?_⟩
  rcases mem_writeByte hz with ⟨rfl, hv⟩ | hz
  · exact ⟨hx, hv⟩
  · exact h.2 z hz

theorem memWf_writeBytes {m : List Host.Cell} (h : memWf m) {x : Nat} (vs : List Byte) (hx : x + vs.length ≤ memSize) :
    memWf (writeBytes m x vs) := by
  induction vs generalizing m x with
  | nil => exact h
  | cons v vs ih =>
    rw [List.length_cons] at hx
    exact ih (memWf_writeByte h (by omega) v) (by omega)

/-- Bytes outside the written range keep their value. -/
theorem readByte_writeBytes_outside (m : List Host.Cell) {x y : Nat} (vs : List Byte)
    (h : y < x ∨ x + vs.length ≤ y) : readByte (writeBytes m x vs) y = readByte m y := by
  induction vs generalizing m x with
  | nil => rfl
  | cons v vs ih =>
    rw [List.length_cons] at h
    rw [writeBytes, ih _ (by omega), readByte_writeByte_ne _ _ (by omega)]

/-- Bytes inside the written range read as written. -/
theorem readByte_writeBytes_inside {m : List Host.Cell} (hm : memWf m) {x : Nat} (vs : List Byte) (i : Nat)
    (hi : i < vs.length) (hx : x + vs.length ≤ memSize) : readByte (writeBytes m x vs) (x + i) = vs[i] := by
  induction vs generalizing m x i with
  | nil => cases hi
  | cons v vs ih =>
    rw [List.length_cons] at hx hi
    cases i with
    | zero =>
      simp only [Nat.add_zero, List.getElem_cons_zero]
      rw [writeBytes, readByte_writeBytes_outside _ _ (by omega), readByte_writeByte_same hm]
    | succ i =>
      have := ih (memWf_writeByte hm (x := x) (by omega) v) (x := x + 1) i (by omega) (by omega)
      rw [writeBytes, show x + (i + 1) = x + 1 + i by omega, this]
      rfl

@[simp] theorem readWords_length (m : List Host.Cell) (x n : Nat) : (readWords m x n).length = n := by
  induction n generalizing x with
  | zero => rfl
  | succ n ih => simp [readWords, ih]

/-- The words `DECODE` may read are those from the cursor to the end of the buffer (R131). -/
@[simp] theorem bufWordsFrom_length (m : List Host.Cell) (b : Buf) (pos : Nat) :
    (bufWordsFrom m b pos).length = Config.bufWords - pos := readWords_length ..

theorem readWords_getElem (m : List Host.Cell) (x n i : Nat) (h : i < n) :
    (readWords m x n)[i]'(by simpa using h) = readWord m (x + 4 * i) := by
  induction n generalizing x i with
  | zero => cases h
  | succ n ih =>
    cases i with
    | zero => rfl
    | succ i =>
      have := ih (x + 4) i (by omega)
      simp only [readWords, List.getElem_cons_succ, this]
      congr 1
      omega

/-- The `i`-th of those words is `MemRead(b, pos + i)` (R13). -/
theorem bufWordsFrom_getElem (m : List Host.Cell) (b : Buf) (pos i : Nat) (h : i < Config.bufWords - pos) :
    (bufWordsFrom m b pos)[i]'(by simpa using h) = memRead m b (pos + i) := by
  have key := readWords_getElem m (bufBase b + 4 * pos) (Config.bufWords - pos) i h
  simp only [bufWordsFrom, key, memRead, Nat.mul_add, Nat.add_assoc]

theorem readWords_append (m : List Host.Cell) (x a b : Nat) :
    readWords m x (a + b) = readWords m x a ++ readWords m (x + 4 * a) b := by
  induction a generalizing x with
  | zero => simp [readWords]
  | succ a ih => rw [Nat.add_right_comm, readWords, readWords, ih, List.cons_append]; congr 3; omega

@[simp] theorem bytesOfWords_length (ws : List Word) : (bytesOfWords ws).length = 4 * ws.length := by
  induction ws with
  | nil => rfl
  | cons w t ih => simp only [bytesOfWords, List.flatMap_cons, List.length_append] at *; simp [ih, wordBytes]; omega

end Sys2Proof.Machine
end

