-- ==== Sys2Proof/Laws/Ops.lean ====
section
/-! SUPPORT. For each shared operation, once, everything it can do. -/

namespace Sys2Proof.Machine

/-! ### A handler on a channel -/

theorem State.onChan_of_get {s : State} {c : Nat} {ch : Chan} (f : Ctx → Work → Work) (h : s.channels[c]? = some ch) :
    s.onChan c f = s.commit c (f (s.ctx c) (Work.start ch)) := by
  simp only [State.onChan, h]

theorem State.onChan_of_none {s : State} {c : Nat} (f : Ctx → Work → Work) (h : s.channels[c]? = none) :
    s.onChan c f = s := by
  simp only [State.onChan, h]

/-- A handler changes the channel it works on, and adds to the trace, the pending writes and the log. -/
theorem State.onChan_cases (s : State) (c : Nat) (f : Ctx → Work → Work) :
    (s.channels[c]? = none ∧ s.onChan c f = s) ∨
      ∃ ch, s.channels[c]? = some ch ∧ s.onChan c f = s.commit c (f (s.ctx c) (Work.start ch)) := by
  cases h : s.channels[c]? with
  | none => exact .inl ⟨rfl, State.onChan_of_none f h⟩
  | some ch => exact .inr ⟨ch, rfl, State.onChan_of_get f h⟩

theorem State.onRequest_of_get {s : State} {c : Nat} {ch : Chan} (f : Ctx → Work → Work)
    (h : s.channels[c]? = some ch) :
    s.onRequest c f =
      { s.commit c (f (s.ctx c) (Work.start ch)) with ret := (f (s.ctx c) (Work.start ch)).ret } := by
  simp only [State.onRequest, h]

theorem State.onRequest_of_none {s : State} {c : Nat} (f : Ctx → Work → Work) (h : s.channels[c]? = none) :
    s.onRequest c f = s := by
  simp only [State.onRequest, h]

/-- `commit` in the words of the statements. -/
theorem State.commit_eq_after (s : State) (c : Nat) (w : Work) : s.commit c w = s.after c w.ch w.out w.log := rfl

/-- Writing back the context that stands there changes nothing. -/
theorem State.after_self {s : State} {c : Nat} {ch : Chan} (h : s.channels[c]? = some ch) : s.after c ch [] [] = s := by
  obtain ⟨hc, rfl⟩ := List.getElem?_eq_some_iff.1 h
  simp [State.after]

/-- `endConsume` in the words of the statements. -/
theorem State.endConsume_eq_rearmed (s : State) : s.endConsume = s.rearmed := by
  simp [State.endConsume, State.rearmed, State.emits, State.ackNotification, Event.regWrites]

/-- An existing channel, from its lookup. -/
theorem lt_of_get {s : State} {c : Nat} {ch : Chan} (h : s.channels[c]? = some ch) : c < s.channels.length :=
  (List.getElem?_eq_some_iff.1 h).1

/-! ### Guards -/

theorem State.whenAttached_next {s t : State} {k : Host.Outcome State Fault Refusal} :
    s.whenAttached k = .next t ↔ s.attached = true ∧ k = .next t := by
  unfold State.whenAttached; split <;> simp_all

theorem State.whenChan_next {s t : State} {c : Nat} {k : Host.Outcome State Fault Refusal} :
    s.whenChan c k = .next t ↔ c < s.channels.length ∧ k = .next t := by
  unfold State.whenChan; split <;> simp_all

theorem State.whenConsuming_next {s t k : State} :
    s.whenConsuming k = .next t ↔ s.attached = true ∧ s.notifyBusy = true ∧ k = t := by
  unfold State.whenConsuming; rw [State.whenAttached_next]; split <;> simp_all

theorem State.writeReg_next {s t : State} {c : Nat} {f : CtlRegs → CtlRegs} :
    s.writeReg c f = .next t ↔ c < s.regs.length ∧ t = s.updRegs c f := by
  unfold State.writeReg; split <;> simp_all [eq_comm]

/-! ### Dispatch and the framing check -/

theorem State.dispatch_of_get {s : State} {ch : BitVec 3} {x : Chan} (f : Ctx → Work → Work)
    (h : s.channels[ch.toNat]? = some x) :
    s.dispatch ch f = s.commit ch.toNat (f (s.ctx ch.toNat) (Work.start x)) := by
  rw [State.dispatch, if_pos (lt_of_get h), State.onChan_of_get f h]

theorem State.dispatch_invalid {s : State} {ch : BitVec 3} (f : Ctx → Work → Work)
    (h : s.channels.length ≤ ch.toNat) :
    s.dispatch ch f = s.takeException (.protocolViolation .invalidChannel ch.toNat) := by
  rw [State.dispatch, if_neg (by omega)]

/-- A dispatched packet changes one existing channel, or it is logged for an invalid one. -/
theorem State.dispatch_cases (s : State) (ch : BitVec 3) (f : Ctx → Work → Work) :
    (∃ x, s.channels[ch.toNat]? = some x ∧
        s.dispatch ch f = s.commit ch.toNat (f (s.ctx ch.toNat) (Work.start x))) ∨
      (s.channels.length ≤ ch.toNat ∧
        s.dispatch ch f = s.takeException (.protocolViolation .invalidChannel ch.toNat)) := by
  cases h : s.channels[ch.toNat]? with
  | none => exact .inr ⟨List.getElem?_eq_none_iff.1 h, State.dispatch_invalid f (List.getElem?_eq_none_iff.1 h)⟩
  | some x => exact .inl ⟨x, rfl, State.dispatch_of_get f h⟩

theorem State.framingCheck_same (s : State) (n : Nat) : s.framingCheck n n = s.advance n := by
  simp [State.framingCheck]

theorem State.framingCheck_ne (s : State) {size len : Nat} (h : len ≠ size) :
    s.framingCheck size len = s.abortConsume (.framingError s.curBuf (s.cursor.get s.curBuf)) := by
  simp [State.framingCheck, h]

/-- A packet that answers a next state has been dispatched and checked. -/
theorem State.packet_next {s t : State} {h : Hdr} {len : Nat} {f : Ctx → Work → Work} :
    s.packet h len f = .next t ↔
      s.attached = true ∧ s.notifyBusy = true ∧ (s.dispatch h.ch f).framingCheck h.size len = t := by
  unfold State.packet; exact State.whenConsuming_next

/-- A packet with the right declared size for an existing channel: the handler's work, and the cursor past it. -/
theorem State.packet_receives {s : State} {h : Hdr} {len : Nat} {ch : Chan} (f : Ctx → Work → Work)
    (hr : receives s h len ch) :
    s.packet h len f =
      .next ((s.commit h.ch.toNat (f (s.ctx h.ch.toNat) (Work.start ch))).pastPacket h.size) := by
  obtain ⟨ha, hb, hg, hl⟩ := hr
  rw [State.packet_next.2 ⟨ha, hb, rfl⟩, State.dispatch_of_get f hg, hl, State.framingCheck_same]
  rfl

/-- The same in the words of the statements. -/
theorem State.packet_next_after {s : State} {h : Hdr} {len : Nat} {ch : Chan} {f : Ctx → Work → Work} {w : Work}
    (hr : receives s h len ch) (hw : f (s.ctx h.ch.toNat) (Work.start ch) = w) :
    s.packet h len f = .next ((s.after h.ch.toNat w.ch w.out w.log).pastPacket len) := by
  rw [State.packet_receives f hr, hw, hr.2.2.2]; rfl

/-- Every ring packet goes through `packet` with its computed length; markers and the other operations do not. -/
theorem exec_ringHdr {i : Instr} {h : Hdr} (hi : ringHdr i = some h) :
    ∃ f : Ctx → Work → Work, ∀ s, exec i s = s.packet h (ringLen i) f := by
  cases i <;> simp only [ringHdr, Option.some.injEq, reduceCtorEq] at hi <;> subst hi <;>
    exact ⟨_, fun _ => rfl⟩

end Sys2Proof.Machine
end

