-- ==== Sys2Proof/Laws/Handlers.lean ====
section
/-! SUPPORT. What each shared operation of the handlers does to the context and to the outputs. -/

namespace Sys2Proof.Machine

theorem Work.ext_fields {v w : Work} (h1 : v.ch = w.ch) (h2 : v.out = w.out) (h3 : v.log = w.log) (h4 : v.ret = w.ret) :
    v = w := by
  cases v; cases w; simp_all

/-! ### Flow control and commands -/

@[simp] theorem setTx_ch (x : Ctx) (e f : Bool) (w : Work) :
    (setTx x e f w).ch = { w.ch with txEnabled := e, txFull := f } := by
  simp only [setTx]; split <;> [rfl; (split <;> rfl)]

@[simp] theorem setTx_log (x : Ctx) (e f : Bool) (w : Work) : (setTx x e f w).log = w.log := by
  simp only [setTx]; split <;> [rfl; (split <;> rfl)]

@[simp] theorem setTx_ret (x : Ctx) (e f : Bool) (w : Work) : (setTx x e f w).ret = w.ret := by
  simp only [setTx]; split <;> [rfl; (split <;> rfl)]

/-- The signal is emitted on an edge of `ACCEPTING`, and only there (R223). -/
@[simp] theorem setTx_out (x : Ctx) (e f : Bool) (w : Work) :
    (setTx x e f w).out = w.out ++
      (if accepting w.ch && !(e && !f) then [.txStop x.c]
       else if (e && !f) && !accepting w.ch then [.txResume x.c] else []) := by
  have key : ∀ (b a : Bool) (v : Work) (p q : Event),
      (if b && !a then v.emit p else if a && !b then v.emit q else v).out =
        v.out ++ (if b && !a then [p] else if a && !b then [q] else []) := by
    intro b a v p q
    cases b <;> cases a <;> simp
  exact key _ _ _ _ _

@[simp] theorem issueCmd_ch (x : Ctx) (op : Opcode) (w : Work) :
    (issueCmd x op w).ch = { w.ch with cmdSeq := w.ch.cmdSeq + 1 } := rfl

@[simp] theorem issueCmd_out (x : Ctx) (op : Opcode) (w : Work) :
    (issueCmd x op w).out = w.out ++ [.writeCommand x.c (w.ch.cmdSeq + 1) op] := rfl

@[simp] theorem issueCmd_log (x : Ctx) (op : Opcode) (w : Work) : (issueCmd x op w).log = w.log := rfl
@[simp] theorem issueCmd_ret (x : Ctx) (op : Opcode) (w : Work) : (issueCmd x op w).ret = w.ret := rfl

/-- `START_FLUSH` while a flush is outstanding does nothing (R183). -/
theorem startFlush_pending (x : Ctx) (w : Work) (h : w.ch.flushPending = true) : startFlush x w = w := by
  simp [startFlush, h]

/-- `START_FLUSH` without one issues one command and records its sequence (R183). -/
theorem startFlush_idle (x : Ctx) (w : Work) (h : w.ch.flushPending = false) :
    startFlush x w =
      { w with
        ch := { w.ch with
                cmdSeq := w.ch.cmdSeq + 1, flushSeq := w.ch.cmdSeq + 1, flushPending := true, eofDeferred := false }
        out := w.out ++ [.writeCommand x.c (w.ch.cmdSeq + 1) .abortFlushReset] } := by
  simp [startFlush, h, issueCmd, Work.upd, Work.emit]

@[simp] theorem sendEof_ch (x : Ctx) (w : Work) : (sendEof x w).ch = { w.ch with eofDeferred := false } := rfl
@[simp] theorem sendEof_out (x : Ctx) (w : Work) : (sendEof x w).out = w.out ++ [.writeControl x.c] := rfl
@[simp] theorem sendEof_log (x : Ctx) (w : Work) : (sendEof x w).log = w.log := rfl
@[simp] theorem sendEof_ret (x : Ctx) (w : Work) : (sendEof x w).ret = w.ret := rfl

@[simp] theorem clearFlush_ch (w : Work) :
    (clearFlush w).ch = { w.ch with flushPending := false, eofDeferred := false } := rfl
@[simp] theorem clearFlush_out (w : Work) : (clearFlush w).out = w.out := rfl
@[simp] theorem clearFlush_log (w : Work) : (clearFlush w).log = w.log := rfl
@[simp] theorem clearFlush_ret (w : Work) : (clearFlush w).ret = w.ret := rfl

@[simp] theorem announce_ch (x : Ctx) (o n : BusState) (w : Work) : (announce x o n w).ch = w.ch := by
  simp only [announce]; split <;> rfl
@[simp] theorem announce_out (x : Ctx) (o n : BusState) (w : Work) :
    (announce x o n w).out = w.out ++ (if o ≠ n then [.onBusStateChange x.c o n] else []) := by
  simp only [announce]; split <;> simp
@[simp] theorem announce_log (x : Ctx) (o n : BusState) (w : Work) : (announce x o n w).log = w.log := by
  simp only [announce]; split <;> rfl
@[simp] theorem announce_ret (x : Ctx) (o n : BusState) (w : Work) : (announce x o n w).ret = w.ret := by
  simp only [announce]; split <;> rfl

@[simp] theorem reenableErrGen_ch (x : Ctx) (w : Work) : (reenableErrGen x w).ch = { w.ch with errGenEn := true } := by
  simp only [reenableErrGen]
  split
  · next h => cases hw : w.ch; simp_all
  · rfl
@[simp] theorem reenableErrGen_out (x : Ctx) (w : Work) :
    (reenableErrGen x w).out = w.out ++ (if w.ch.errGenEn then [] else [.setModeBits x.c maskEpen maskEpen]) := by
  simp only [reenableErrGen]; split <;> simp
@[simp] theorem reenableErrGen_log (x : Ctx) (w : Work) : (reenableErrGen x w).log = w.log := by
  simp only [reenableErrGen]; split <;> rfl
@[simp] theorem reenableErrGen_ret (x : Ctx) (w : Work) : (reenableErrGen x w).ret = w.ret := by
  simp only [reenableErrGen]; split <;> rfl

/-- `ENTER_BUS_OFF` closes the send path and forces a flush under manual restart, unless one is outstanding (R200). -/
theorem enterBusOff_eq (x : Ctx) (w : Work) :
    let forced := (chanCfg x.cfg x.c).restartMs = 0 ∧ w.ch.flushPending = false
    enterBusOff x w =
      { w with
        ch := { w.ch with
          txEnabled := false
          cmdSeq := if forced then w.ch.cmdSeq + 1 else w.ch.cmdSeq
          flushSeq := if forced then w.ch.cmdSeq + 1 else w.ch.flushSeq
          flushPending := if forced then true else w.ch.flushPending
          eofDeferred := if forced then false else w.ch.eofDeferred }
        out := w.out ++ (if w.ch.txEnabled = true ∧ w.ch.txFull = false then [.txStop x.c] else [])
          ++ (if forced then [.writeCommand x.c (w.ch.cmdSeq + 1) .abortFlushReset] else []) } := by
  intro forced
  unfold enterBusOff
  by_cases hr : (chanCfg x.cfg x.c).restartMs = 0
  · rw [if_pos hr]
    by_cases hf : w.ch.flushPending = false
    · have : forced := ⟨hr, hf⟩
      rw [startFlush_idle _ _ (by simpa using hf)]
      apply Work.ext_fields <;> simp [this, accepting]
    · have : ¬ forced := by simp [forced, hf]
      rw [startFlush_pending _ _ (by simpa using hf)]
      apply Work.ext_fields <;> simp [this, accepting]
  · rw [if_neg hr]
    have : ¬ forced := by simp [forced, hr]
    apply Work.ext_fields <;> simp [this, accepting]

/-! ### Events to the host -/

@[simp] theorem sendErr_ch (x : Ctx) (e : ErrEvent) (w : Work) :
    (sendErr x e w).ch =
      { w.ch with
        cnt := if x.draw.allocOk then w.ch.cnt else { w.ch.cnt with rxDropped := w.ch.cnt.rxDropped + 1 } } := by
  simp only [sendErr]; split <;> rfl
@[simp] theorem sendErr_out (x : Ctx) (e : ErrEvent) (w : Work) :
    (sendErr x e w).out = w.out ++ (if x.draw.allocOk then [.onBusError x.c e] else []) := by
  simp only [sendErr]; split <;> simp
@[simp] theorem sendErr_log (x : Ctx) (e : ErrEvent) (w : Work) :
    (sendErr x e w).log = w.log ++ (if x.draw.allocOk then [] else [.allocationFailure x.c]) := by
  simp only [sendErr]; split <;> simp
@[simp] theorem sendErr_ret (x : Ctx) (e : ErrEvent) (w : Work) : (sendErr x e w).ret = w.ret := by
  simp only [sendErr]; split <;> rfl

/-! ### The branches of the status path (R187) -/

theorem handleStatus_start {ts : Stamp} {p : StatusPkt} {x : Ctx} {w : Work} (h : isStart w.ch p = true) :
    handleStatus ts p x w = startDone x w := if_pos h

theorem handleStatus_retrigger {ts : Stamp} {p : StatusPkt} {x : Ctx} {w : Work} (h1 : isStart w.ch p = false)
    (h2 : isRetrigger w.ch p = true) : handleStatus ts p x w = retrigger x w := by
  unfold handleStatus; rw [if_neg (by simp [h1]), if_pos h2]

theorem handleStatus_endOfFlush {ts : Stamp} {p : StatusPkt} {x : Ctx} {w : Work} (h1 : isStart w.ch p = false)
    (h2 : isRetrigger w.ch p = false) (h3 : isEndOfFlush w.ch p = true) :
    handleStatus ts p x w = eofOrDefer x w := by
  unfold handleStatus; rw [if_neg (by simp [h1]), if_neg (by simp [h2]), if_pos h3]

theorem handleStatus_response {ts : Stamp} {p : StatusPkt} {x : Ctx} {w : Work} (h1 : isStart w.ch p = false)
    (h2 : isRetrigger w.ch p = false) (h3 : isEndOfFlush w.ch p = false) (h4 : (!p.aut && seqIsCmd w.ch p.seq) = true) :
    handleStatus ts p x w = statusResponse ts p x w := by
  unfold handleStatus; rw [if_neg (by simp [h1]), if_neg (by simp [h2]), if_neg (by simp [h3]), if_pos h4]

theorem handleStatus_ignore {ts : Stamp} {p : StatusPkt} {x : Ctx} {w : Work} (h1 : isStart w.ch p = false)
    (h2 : isRetrigger w.ch p = false) (h3 : isEndOfFlush w.ch p = false) (h4 : (!p.aut && seqIsCmd w.ch p.seq) = false) :
    handleStatus ts p x w = ignoreStatus p x w := by
  unfold handleStatus
  rw [if_neg (by simp [h1]), if_neg (by simp [h2]), if_neg (by simp [h3]), if_neg (by simp [h4])]

/-! ### The echo ring keeps its size -/

@[simp] theorem releaseSlot_slots_length (i : Nat) (ch : Chan) : (releaseSlot i ch).slots.length = ch.slots.length := by
  simp [releaseSlot]
@[simp] theorem releaseAll_slots_length (ch : Chan) : (releaseAll ch).slots.length = ch.slots.length := by
  simp [releaseAll]
@[simp] theorem fillSlot_slots_length (i : Nat) (f : TxFrame) (ch : Chan) :
    (fillSlot i f ch).slots.length = ch.slots.length := by
  simp [fillSlot]

/-- The legality of a context does not depend on its counters. -/
theorem chanInv_cnt (cfg : Cfg) (ch : Chan) (k : Counters) : chanInv cfg { ch with cnt := k } ↔ chanInv cfg ch := Iff.rfl

end Sys2Proof.Machine
end

