-- ==== Sys2Proof/Laws/Legal.lean ====
section
/-! SUPPORT. Every handler keeps a legal context legal, and emits only outputs the controller can take. -/

namespace Sys2Proof.Machine

/-- An output of a handler on channel `c`: no re-arm, and its register writes are outbound words of channel `c`. -/
def okEvent (c : Nat) (e : Event) : Prop :=
  isArm e = false ∧ ∀ w ∈ e.regWrites, deliverable w ∧ regWriteChan w = c

theorem encodeCmd_seq (q : Byte) (op : Opcode) : field (encodeCmd q op) 16 8 = q := by
  cases op <;> simp only [encodeCmd, field_or]
  · rw [field_putField _ _ (by omega), show field (1 : Word) 16 8 = 0 by decide]; simp
  · rw [field_putField _ _ (by omega), show field (2 : Word) 16 8 = 0 by decide]; simp

theorem deliverable_cmd {c : Nat} (hc : c < 4) (q : Byte) (op : Opcode) : deliverable (.cmd c (encodeCmd q op)) := by
  refine ⟨?_, hc⟩
  simp only [decode, decodeReg, encodeCmd_seq]
  cases op
  · simp [Except.toOption]
  · split <;> simp [Except.toOption]

section
variable {c : Nat}

@[simp] theorem okEvent_onRxFrame (d : Nat) (f : RxFrame) : okEvent c (.onRxFrame d f) := by simp [okEvent, isArm, Event.regWrites]
@[simp] theorem okEvent_onTxComplete (d i n t : Nat) (b : Bool) : okEvent c (.onTxComplete d i n t b) := by
  simp [okEvent, isArm, Event.regWrites]
@[simp] theorem okEvent_onBusStateChange (d : Nat) (o n : BusState) : okEvent c (.onBusStateChange d o n) := by
  simp [okEvent, isArm, Event.regWrites]
@[simp] theorem okEvent_onBusError (d : Nat) (e : ErrEvent) : okEvent c (.onBusError d e) := by
  simp [okEvent, isArm, Event.regWrites]
@[simp] theorem okEvent_onRestart (d : Nat) : okEvent c (.onRestart d) := by simp [okEvent, isArm, Event.regWrites]
@[simp] theorem okEvent_opDone (d : Nat) (o : Op) (r : Result) : okEvent c (.opDone d o r) := by
  simp [okEvent, isArm, Event.regWrites]
@[simp] theorem okEvent_txStop (d : Nat) : okEvent c (.txStop d) := by simp [okEvent, isArm, Event.regWrites]
@[simp] theorem okEvent_txResume (d : Nat) : okEvent c (.txResume d) := by simp [okEvent, isArm, Event.regWrites]

theorem okEvent_writeCommand (hc : c < 4) (q : Byte) (op : Opcode) : okEvent c (.writeCommand c q op) := by
  simp only [okEvent, isArm, Event.regWrites, List.mem_singleton, forall_eq, true_and]
  exact ⟨deliverable_cmd hc q op, rfl⟩

theorem okEvent_writeControl (hc : c < 4) : okEvent c (.writeControl c) := by
  simp only [okEvent, isArm, Event.regWrites, List.mem_singleton, forall_eq, true_and]
  exact ⟨⟨by simp [decode, decodeReg, Except.toOption], hc⟩, rfl⟩

theorem okEvent_clearRm (hc : c < 4) : okEvent c (.setModeBits c maskRm 0) := by
  simp only [okEvent, isArm, Event.regWrites, List.mem_singleton, forall_eq, true_and]
  exact ⟨⟨by simp [decode, decodeReg, Except.toOption], hc⟩, rfl⟩

theorem okEvent_clearEpen (hc : c < 4) : okEvent c (.setModeBits c maskEpen 0) := by
  simp only [okEvent, isArm, Event.regWrites, List.mem_singleton, forall_eq, true_and]
  exact ⟨⟨by simp [decode, decodeReg, Except.toOption, maskEpen, maskRm], hc⟩, rfl⟩

theorem okEvent_setEpen (hc : c < 4) : okEvent c (.setModeBits c maskEpen maskEpen) := by
  simp only [okEvent, isArm, Event.regWrites, List.mem_singleton, forall_eq, true_and]
  exact ⟨⟨by simp [decode, decodeReg, Except.toOption, maskEpen, maskRm], hc⟩, rfl⟩

end

/-! ### The TX frame words of an accepted frame -/

theorem len2dlc_some {n : Nat} {d : BitVec 4} (h : len2dlc n = some d) : dlc2lenFd d = n := by
  rw [len2dlc, Option.map_eq_some_iff] at h
  obtain ⟨i, hi, rfl⟩ := h
  simpa using List.find?_some hi

/-- `LEN2DLC` is defined on the sixteen listed lengths only (R101). -/
theorem len2dlc_isSome (n : Nat) :
    (len2dlc n).isSome = true ↔ n ∈ [0, 1, 2, 3, 4, 5, 6, 7, 8, 12, 16, 20, 24, 32, 48, 64] := by
  constructor
  · intro h
    obtain ⟨d, hd⟩ := Option.isSome_iff_exists.1 h
    rw [← len2dlc_some hd]
    clear hd h
    revert d; decide
  · intro h
    simp only [List.mem_cons, List.not_mem_nil, or_false] at h
    rcases h with rfl | rfl | rfl | rfl | rfl | rfl | rfl | rfl | rfl | rfl | rfl | rfl | rfl | rfl | rfl | rfl <;> decide

/-- `VALID` in the words of the statements (R220). -/
theorem validFrame_iff (cfg : Cfg) (c : Nat) (f : TxFrame) : validFrame cfg c f = true ↔ submittable cfg c f := by
  simp only [validFrame, submittable, Bool.and_eq_true, validLen, len2dlc_isSome, beq_iff_eq, Bool.or_eq_true,
    decide_eq_true_eq, Bool.not_eq_true']
  cases f.fdf <;> simp [and_assoc]

/-- `CFG_OK` in the words of the statements (R301). -/
theorem cfgOk_iff (cfg : Cfg) : cfgOk cfg = true ↔ cfgLegal cfg := by
  have e : ∀ v : BitVec 32, ¬ v = 0 ↔ 1 ≤ v.toNat := by
    intro v
    rw [← BitVec.toNat_inj]; simp; omega
  simp only [cfgOk, cfgLegal, Bool.and_eq_true, decide_eq_true_eq, bne_iff_ne, List.all_eq_true, List.mem_range,
    Bool.or_eq_true, Bool.not_eq_true', e]
  constructor
  · rintro ⟨⟨⟨⟨⟨⟨⟨h1, h2⟩, h3⟩, h4⟩, h5⟩, h6⟩, h7⟩, h8⟩
    refine ⟨h1, h2, h3, h4, h5, h6, h7, fun c hc ho => ?_⟩
    rcases h8 c hc with h | h
    · rw [h] at ho; cases ho
    · exact h
  · rintro ⟨h1, h2, h3, h4, h5, h6, h7, h8⟩
    refine ⟨⟨⟨⟨⟨⟨⟨h1, h2⟩, h3⟩, h4⟩, h5⟩, h6⟩, h7⟩, fun c hc => ?_⟩
    cases h : (chanCfg cfg c).oneshot
    · exact .inl rfl
    · exact .inr (h8 c hc h)

theorem encodeTxWords_decodes {f : TxWords} (h : f.data.length = f.payLen) :
    decodeTxWords (encodeTxWords f) = some f := by
  have e0 : (encodeTxWords f).getD 0 0 = putField f.id 0 ||| putBit f.rtr 29 ||| putBit f.ide 30 := rfl
  have e1 : (encodeTxWords f).getD 1 0 = putField f.seq 0 ||| putField f.dlc 8 ||| putBit f.esi 13 |||
      putBit f.brs 14 ||| putBit f.fdf 15 ||| putBit f.sms 16 ||| putBit true 31 := rfl
  have hid : field ((encodeTxWords f).getD 0 0) 0 29 = f.id := by
    rw [e0]; simp (disch := omega) [field_or, field_putField, field_putBit]
  have hrtr : bitAt ((encodeTxWords f).getD 0 0) 29 = f.rtr := by
    rw [e0]; simp (disch := omega) [bitAt_or, bitAt_putField, bitAt_putBit, bitAt_putBit_ne]
  have hide : bitAt ((encodeTxWords f).getD 0 0) 30 = f.ide := by
    rw [e0]; simp (disch := omega) [bitAt_or, bitAt_putField, bitAt_putBit, bitAt_putBit_ne]
  have hseq : field ((encodeTxWords f).getD 1 0) 0 8 = f.seq := by
    rw [e1]; simp (disch := omega) [field_or, field_putField, field_putField_disjoint, field_putBit]
  have hdlc : field ((encodeTxWords f).getD 1 0) 8 4 = f.dlc := by
    rw [e1]; simp (disch := omega) [field_or, field_putField, field_putField_disjoint, field_putBit]
  have hesi : bitAt ((encodeTxWords f).getD 1 0) 13 = f.esi := by
    rw [e1]; simp (disch := omega) [bitAt_or, bitAt_putField, bitAt_putBit, bitAt_putBit_ne]
  have hbrs : bitAt ((encodeTxWords f).getD 1 0) 14 = f.brs := by
    rw [e1]; simp (disch := omega) [bitAt_or, bitAt_putField, bitAt_putBit, bitAt_putBit_ne]
  have hfdf : bitAt ((encodeTxWords f).getD 1 0) 15 = f.fdf := by
    rw [e1]; simp (disch := omega) [bitAt_or, bitAt_putField, bitAt_putBit, bitAt_putBit_ne]
  have hsms : bitAt ((encodeTxWords f).getD 1 0) 16 = f.sms := by
    rw [e1]; simp (disch := omega) [bitAt_or, bitAt_putField, bitAt_putBit, bitAt_putBit_ne]
  have hareq : bitAt ((encodeTxWords f).getD 1 0) 31 = true := by
    rw [e1]; simp (disch := omega) [bitAt_or, bitAt_putBit]
  have hpl : ∀ d : List Byte, TxWords.payLen { f with data := d } = f.payLen := fun _ => rfl
  have hlen : (encodeTxWords f).length = 2 + ceil4 f.payLen := by
    simp only [encodeTxWords, List.length_cons, packBytes_length, h]; omega
  have hdrop : (encodeTxWords f).drop 2 = packBytes f.data := rfl
  have hun : unpackBytes f.payLen (packBytes f.data) = f.data := by
    have := unpackBytes_packBytes f.data []; rwa [List.append_nil, h] at this
  simp only [decodeTxWords, hid, hrtr, hide, hseq, hdlc, hesi, hbrs, hfdf, hsms, hareq, hlen, hdrop, hpl, hun]
  simp

/-- The frame words of an accepted frame are one TX frame (R118, R221). -/
theorem okEvent_txFifo {x : Ctx} (hc : x.c < 4) {f : TxFrame} (hv : validFrame x.cfg x.c f = true) (i : Nat) (b : Bool) :
    okEvent x.c (.txFifo x.c (encodeTx f i b)) := by
  simp only [okEvent, isArm, Event.regWrites, List.mem_singleton, forall_eq, true_and]
  refine ⟨⟨?_, hc⟩, rfl⟩
  simp only [validFrame, Bool.and_eq_true, beq_iff_eq] at hv
  obtain ⟨⟨⟨⟨⟨hl, -⟩, -⟩, -⟩, -⟩, hd⟩ := hv
  obtain ⟨d, hdl⟩ := Option.isSome_iff_exists.1 hl
  have := encodeTxWords_decodes (f := { id := f.id, rtr := f.rtr, ide := f.ide, seq := BitVec.ofNat 8 i, dlc := (len2dlc f.len).getD 0, esi := f.esi, brs := f.brs, fdf := f.fdf, sms := b, data := f.data.take (frameBytes f) })
    (by simp only [TxWords.payLen, hdl, Option.getD_some, len2dlc_some hdl, frameBytes, List.length_take, hd]
        cases f.rtr <;> simp)
  simp only [decode, decodeReg, encodeTx, this]
  rfl

/-! ### Handlers -/

/-- A handler that keeps a legal context legal and emits only what the controller can take. -/
def Good (f : Ctx → Work → Work) : Prop :=
  ∀ x w, cfgLegal x.cfg → x.c < x.cfg.n → chanInv x.cfg w.ch → (∀ e ∈ w.out, okEvent x.c e) →
    chanInv x.cfg (f x w).ch ∧ ∀ e ∈ (f x w).out, okEvent x.c e

theorem cfgLegal_chan {x : Ctx} (h : cfgLegal x.cfg) (hc : x.c < x.cfg.n) : x.c < 4 := by
  obtain ⟨_, h4, _⟩ := h; omega

theorem tWait_ne {cfg : Cfg} (h : cfgLegal cfg) : cfg.tWait ≠ 0#32 := by
  obtain ⟨-, -, -, -, -, h, -⟩ := h
  intro h0; rw [h0] at h; simp at h

theorem good_noEvent (f : Ctx → Work → Work) (h : ∀ x w, ∃ k, (f x w).ch = { w.ch with cnt := k })
    (ho : ∀ x w, (f x w).out = w.out) : Good f := by
  intro x w _ _ hi hw
  obtain ⟨k, hk⟩ := h x w
  rw [hk, ho]
  exact ⟨hi, hw⟩

theorem good_handleUnexpected : Good handleUnexpected := good_noEvent _ (fun _ _ => ⟨_, rfl⟩) fun _ _ => rfl

theorem good_handleUnknown (t : BitVec 4) : Good (handleUnknown t) := good_noEvent _ (fun _ _ => ⟨_, rfl⟩) fun _ _ => rfl

theorem good_handleData (ts : Stamp) (p : DataPkt) : Good (handleData ts p) := by
  intro x w _ _ hi hw
  simp only [handleData]
  split
  · refine ⟨hi, ?_⟩
    simp only [Work.count_out, Work.emit_out, List.mem_append, List.mem_singleton]
    rintro e (he | rfl)
    · exact hw e he
    · exact okEvent_onRxFrame ..
  · exact ⟨hi, hw⟩

/-- `START_FLUSH` leaves a flush outstanding and changes nothing else that legality reads (R183). -/
theorem startFlush_ok (x : Ctx) (w : Work) (hc : x.c < 4) (hw : ∀ e ∈ w.out, okEvent x.c e) :
    (∀ e ∈ (startFlush x w).out, okEvent x.c e) ∧
      ∃ q r e, (startFlush x w).ch = { w.ch with cmdSeq := q, flushSeq := r, flushPending := true, eofDeferred := e } := by
  cases h : w.ch.flushPending
  · rw [startFlush_idle x w h]
    refine ⟨?_, _, _, _, rfl⟩
    simp only [List.mem_append, List.mem_singleton]
    rintro e (he | rfl)
    · exact hw e he
    · exact okEvent_writeCommand hc ..
  · rw [startFlush_pending x w h]
    refine ⟨hw, w.ch.cmdSeq, w.ch.flushSeq, w.ch.eofDeferred, ?_⟩
    rw [← h]

theorem good_requestBuson : Good requestBuson := by
  intro x w hl hn hi hw
  have hc := cfgLegal_chan hl hn
  simp only [requestBuson]
  split
  · exact ⟨hi, hw⟩
  · obtain ⟨ho, q, r, e, hch⟩ := startFlush_ok x (w.upd fun ch => { ch with pollCnt := 0 }) hc hw
    refine ⟨?_, ho⟩
    obtain ⟨-, ⟨-, h1, h2, -⟩, h3⟩ := hi
    simp only [block, Work.upd_ch, hch]
    simp [chanInv, waitInv, flowInv, ringInv, tWait_ne hl] at h1 h2 h3 ⊢
    exact ⟨⟨h1, h2⟩, h3⟩

theorem good_requestStop : Good requestStop := by
  intro x w hl hn hi hw
  have hc := cfgLegal_chan hl hn
  simp only [requestStop]
  split
  · exact ⟨hi, hw⟩
  · have hs : ∀ e ∈ (setTx x false w.ch.txFull w).out, okEvent x.c e := by
      rw [setTx_out]
      intro e he
      rcases List.mem_append.1 he with he | he
      · exact hw e he
      · revert he; split_ifs <;> simp +contextual
    obtain ⟨ho, q, r, e, hch⟩ := startFlush_ok x _ hc hs
    refine ⟨?_, ho⟩
    obtain ⟨-, ⟨-, h1, h2, -⟩, h3⟩ := hi
    simp only [block, Work.upd_ch, hch, setTx_ch]
    simp [chanInv, waitInv, flowInv, ringInv, tWait_ne hl] at h3 ⊢
    exact h3


/-- A set bit pair and its signal (R223). -/
theorem setTx_okOut (x : Ctx) (e f : Bool) (w : Work) (hw : ∀ v ∈ w.out, okEvent x.c v) :
    ∀ v ∈ (setTx x e f w).out, okEvent x.c v := by
  rw [setTx_out]
  intro v hv
  rcases List.mem_append.1 hv with hv | hv
  · exact hw v hv
  · revert hv; split_ifs <;> simp +contextual

theorem emit_okOut {c : Nat} {w : Work} {e : Event} (hw : ∀ v ∈ w.out, okEvent c v) (he : okEvent c e) :
    ∀ v ∈ (w.emit e).out, okEvent c v := by
  simp only [Work.emit_out, List.mem_append, List.mem_singleton]
  rintro v (hv | rfl)
  · exact hw v hv
  · exact he

theorem announce_okOut (x : Ctx) (o n : BusState) (w : Work) (hw : ∀ v ∈ w.out, okEvent x.c v) :
    ∀ v ∈ (announce x o n w).out, okEvent x.c v := by
  simp only [announce]; split
  · exact emit_okOut hw (okEvent_onBusStateChange ..)
  · exact hw

theorem sendErr_okOut (x : Ctx) (e : ErrEvent) (w : Work) (hw : ∀ v ∈ w.out, okEvent x.c v) :
    ∀ v ∈ (sendErr x e w).out, okEvent x.c v := by
  simp only [sendErr]; split
  · exact emit_okOut hw (okEvent_onBusError ..)
  · exact hw

theorem reenableErrGen_okOut (x : Ctx) (w : Work) (hc : x.c < 4) (hw : ∀ v ∈ w.out, okEvent x.c v) :
    ∀ v ∈ (reenableErrGen x w).out, okEvent x.c v := by
  simp only [reenableErrGen]; split
  · exact hw
  · exact emit_okOut hw (okEvent_setEpen hc)

theorem stopDone_ok (x : Ctx) (r : Result) (w : Work) (h : ringInv x.cfg w.ch) (hf : w.ch.eofDeferred = false)
    (ht : w.ch.txEnabled = false) (hw : ∀ v ∈ w.out, okEvent x.c v) :
    chanInv x.cfg (stopDone x r w).ch ∧ ∀ v ∈ (stopDone x r w).out, okEvent x.c v := by
  refine ⟨?_, emit_okOut (announce_okOut _ _ _ _ hw) (okEvent_opDone ..)⟩
  simp only [stopDone, Work.emit_ch, announce_ch, Work.upd_ch]
  simp [chanInv, waitInv, flowInv, ringInv, releaseAll, h, hf, ht]

theorem good_handleEflushAck (q : Byte) : Good (handleEflushAck q) := by
  intro x w hl hn hi hw
  have hc := cfgLegal_chan hl hn
  simp only [handleEflushAck]
  split
  · exact ⟨hi, hw⟩
  · obtain ⟨⟨g1, g2, g3⟩, ⟨h1, h2, h3, h4⟩, hr⟩ := hi
    split
    · next ho hs =>
      refine ⟨?_, emit_okOut hw (okEvent_clearRm hc)⟩
      simp only [flushAckedBuson, Work.upd_ch, Work.emit_ch, clearFlush_ch] at ho hs ⊢
      simp [chanInv, waitInv, flowInv, ringInv, tWait_ne hl, ho] at *
      exact ⟨⟨h2, h3⟩, hr⟩
    · next ho hs =>
      exact stopDone_ok _ _ _ hr rfl (h4 ho) hw
    · next hno1 hno2 =>
      refine ⟨?_, hw⟩
      simp only [clearFlush_ch] at hno1 hno2 ⊢
      simp [chanInv, waitInv, flowInv, ringInv] at *
      refine ⟨⟨g1, g2, ?_⟩, ⟨h2, h3, h4⟩, hr⟩
      intro hop hst
      cases hopc : w.ch.op <;> simp_all

theorem startDone_ok (x : Ctx) (w : Work) (hc : x.c < 4) (hi : chanInv x.cfg w.ch) (hw : ∀ v ∈ w.out, okEvent x.c v) :
    chanInv x.cfg (startDone x w).ch ∧ ∀ v ∈ (startDone x w).out, okEvent x.c v := by
  refine ⟨?_, emit_okOut (setTx_okOut _ _ _ _ (announce_okOut _ _ _ _ (reenableErrGen_okOut _ _ hc hw))) (okEvent_opDone ..)⟩
  obtain ⟨-, ⟨h1, -, -, -⟩, hr⟩ := hi
  simp only [startDone, Work.emit_ch, setTx_ch, announce_ch, Work.upd_ch, reenableErrGen_ch]
  simp [chanInv, waitInv, flowInv, ringInv] at *
  exact ⟨h1, hr⟩

theorem retrigger_ok (x : Ctx) (w : Work) (hc : x.c < 4) (hi : chanInv x.cfg w.ch) (hw : ∀ v ∈ w.out, okEvent x.c v) :
    chanInv x.cfg (retrigger x w).ch ∧ ∀ v ∈ (retrigger x w).out, okEvent x.c v :=
  ⟨hi, emit_okOut hw (okEvent_writeCommand hc ..)⟩

theorem sendEof_ok (x : Ctx) (w : Work) (hc : x.c < 4) (hi : chanInv x.cfg w.ch) (hw : ∀ v ∈ w.out, okEvent x.c v) :
    chanInv x.cfg (sendEof x w).ch ∧ ∀ v ∈ (sendEof x w).out, okEvent x.c v := by
  refine ⟨?_, emit_okOut hw (okEvent_writeControl hc)⟩
  obtain ⟨hwt, ⟨-, h2, h3, h4⟩, hr⟩ := hi
  exact ⟨hwt, ⟨fun _ => rfl, h2, h3, h4⟩, hr⟩

theorem eofOrDefer_ok (x : Ctx) (w : Work) (hc : x.c < 4) (hp : w.ch.flushPending = true) (hi : chanInv x.cfg w.ch)
    (hw : ∀ v ∈ w.out, okEvent x.c v) :
    chanInv x.cfg (eofOrDefer x w).ch ∧ ∀ v ∈ (eofOrDefer x w).out, okEvent x.c v := by
  simp only [eofOrDefer]
  split
  · exact sendEof_ok x w hc hi hw
  · obtain ⟨hwt, ⟨-, h2, h3, h4⟩, hr⟩ := hi
    exact ⟨⟨hwt, ⟨fun h => by simp [hp] at h, h2, h3, h4⟩, hr⟩, hw⟩

theorem enterBusOff_ok (x : Ctx) (w : Work) (hc : x.c < 4) (hw : ∀ v ∈ w.out, okEvent x.c v) :
    (∀ v ∈ (enterBusOff x w).out, okEvent x.c v) ∧
      ∃ q r p e, (p = false → (e = w.ch.eofDeferred ∧ w.ch.flushPending = false)) ∧ (w.ch.flushPending = true → p = true) ∧
        (enterBusOff x w).ch =
        { w.ch with cmdSeq := q, flushSeq := r, flushPending := p, eofDeferred := e, txEnabled := false } := by
  have ht := setTx_okOut x false w.ch.txFull w hw
  simp only [enterBusOff]
  split
  · obtain ⟨ho, q, r, e, hch⟩ := startFlush_ok x _ hc ht
    refine ⟨ho, q, r, true, e, by simp, by simp, ?_⟩
    rw [hch, setTx_ch]
  · refine ⟨ht, w.ch.cmdSeq, w.ch.flushSeq, w.ch.flushPending, w.ch.eofDeferred, by simp, by simp, ?_⟩
    rw [setTx_ch]

theorem changeState_ok (x : Ctx) (new : BusState) (w : Work) (hc : x.c < 4) (hn : new ≠ .stopped)
    (hi : chanInv x.cfg w.ch) (hw : ∀ v ∈ w.out, okEvent x.c v) :
    chanInv x.cfg (changeState x new w).ch ∧ ∀ v ∈ (changeState x new w).out, okEvent x.c v := by
  set w1 : Work := (w.upd fun ch => { ch with busState := new, cnt := countChange new ch.cnt }).emit
    (.onBusStateChange x.c w.ch.busState new) with hw1
  have ho1 : ∀ v ∈ w1.out, okEvent x.c v := emit_okOut hw (okEvent_onBusStateChange ..)
  set w2 : Work := if new = .busOff then enterBusOff x w1 else w1 with hw2
  have key : chanInv x.cfg w2.ch ∧ ∀ v ∈ w2.out, okEvent x.c v := by
    obtain ⟨⟨g1, g2, g3⟩, ⟨h1, h2, h3, h4⟩, hr⟩ := hi
    rw [hw2]
    split
    · obtain ⟨hout, q, r, p, e, hp, hp', hch⟩ := enterBusOff_ok x w1 hc ho1
      refine ⟨?_, hout⟩
      rw [hch]
      simp only [hw1, Work.emit_ch, Work.upd_ch] at hp hp' ⊢
      simp [chanInv, waitInv, flowInv, ringInv] at *
      exact ⟨⟨g1, g2, fun a b => hp' (g3 a b)⟩, fun h => by rw [(hp h).1, h1 (hp h).2], hr⟩
    · next hne =>
      refine ⟨?_, ho1⟩
      simp only [hw1, Work.emit_ch, Work.upd_ch]
      exact ⟨⟨g1, g2, g3⟩, ⟨h1, fun h => absurd h hn, fun h => absurd h hne, h4⟩, hr⟩
  show chanInv x.cfg (if isRestart x w.ch.busState new then
      (w2.count fun k => { k with restarts := k.restarts + 1 }).emit (.onRestart x.c) else w2).ch ∧ _
  have hcs : changeState x new w = (if isRestart x w.ch.busState new then
      (w2.count fun k => { k with restarts := k.restarts + 1 }).emit (.onRestart x.c) else w2) := rfl
  rw [hcs]
  split
  · exact ⟨key.1, emit_okOut (w := w2.count _) key.2 (okEvent_onRestart ..)⟩
  · exact key

theorem classify_ne_stopped (tx rx : Byte) (f : ErrFlags) : (classify tx rx f).state ≠ .stopped := by
  simp only [classify, classifyState]
  split_ifs <;> simp

/-- Updates of fields that legality does not read. -/
theorem chanInv_congr {cfg : Cfg} {a b : Chan} (h : chanInv cfg a) (h1 : b.op = a.op) (h2 : b.waitCnt = a.waitCnt)
    (h3 : b.stage = a.stage) (h4 : b.flushPending = a.flushPending) (h5 : b.eofDeferred = a.eofDeferred)
    (h6 : b.busState = a.busState) (h7 : b.txEnabled = a.txEnabled) (h8 : b.slots.length = a.slots.length)
    (h9 : b.echoIdx = a.echoIdx) : chanInv cfg b := by
  simp only [chanInv, waitInv, flowInv, ringInv, h1, h2, h3, h4, h5, h6, h7, h8, h9]
  exact h

theorem errCapCheck_ok (x : Ctx) (w : Work) (hc : x.c < 4) (hi : chanInv x.cfg w.ch)
    (hw : ∀ v ∈ w.out, okEvent x.c v) :
    chanInv x.cfg (errCapCheck x w).ch ∧ ∀ v ∈ (errCapCheck x w).out, okEvent x.c v := by
  simp only [errCapCheck]
  split
  · exact ⟨hi, emit_okOut hw (okEvent_clearEpen hc)⟩
  · exact ⟨hi, hw⟩

theorem sendErr_ok (x : Ctx) (e : ErrEvent) (w : Work) (hi : chanInv x.cfg w.ch) (hw : ∀ v ∈ w.out, okEvent x.c v) :
    chanInv x.cfg (sendErr x e w).ch ∧ ∀ v ∈ (sendErr x e w).out, okEvent x.c v := by
  refine ⟨?_, sendErr_okOut x e w hw⟩
  rw [sendErr_ch]; exact hi

theorem good_handleError (ts : Stamp) (p : ErrorPkt) : Good (handleError ts p) := by
  intro x w hl hn hi hw
  have hc := cfgLegal_chan hl hn
  simp only [handleError]
  split
  · exact ⟨hi, hw⟩
  · generalize hr : (classify p.txerr p.rxerr (errorFlags p)).state = st
    have hst : st ≠ .stopped := hr ▸ classify_ne_stopped _ _ _
    have k1 : ∀ w1 : Work, (chanInv x.cfg w1.ch ∧ ∀ v ∈ w1.out, okEvent x.c v) →
        chanInv x.cfg ((errCapCheck x (sendErr x (errorEvent x ts p w.ch.busState) (w1.upd fun ch =>
          { ch with errRepCnt := ch.errRepCnt + 1, cnt := countError p ch.cnt, txErr := p.txerr, rxErr := p.rxerr }))).upd
            fun ch => { ch with pollCnt := x.cfg.tPoll }).ch ∧
        ∀ v ∈ ((errCapCheck x (sendErr x (errorEvent x ts p w.ch.busState) (w1.upd fun ch =>
          { ch with errRepCnt := ch.errRepCnt + 1, cnt := countError p ch.cnt, txErr := p.txerr, rxErr := p.rxerr }))).upd
            fun ch => { ch with pollCnt := x.cfg.tPoll }).out, okEvent x.c v := by
      intro w1 ⟨i1, o1⟩
      obtain ⟨i2, o2⟩ := sendErr_ok x (errorEvent x ts p w.ch.busState) (w1.upd fun ch =>
        { ch with errRepCnt := ch.errRepCnt + 1, cnt := countError p ch.cnt, txErr := p.txerr, rxErr := p.rxerr })
        (chanInv_congr i1 rfl rfl rfl rfl rfl rfl rfl rfl rfl) o1
      obtain ⟨i3, o3⟩ := errCapCheck_ok x _ hc i2 o2
      exact ⟨chanInv_congr i3 rfl rfl rfl rfl rfl rfl rfl rfl rfl, o3⟩
    apply k1
    split
    · exact changeState_ok x st w hc hst hi hw
    · exact ⟨hi, hw⟩

theorem statusResponse_ok (ts : Stamp) (p : StatusPkt) (x : Ctx) (w : Work) (hc : x.c < 4) (hi : chanInv x.cfg w.ch)
    (hw : ∀ v ∈ w.out, okEvent x.c v) :
    chanInv x.cfg (statusResponse ts p x w).ch ∧ ∀ v ∈ (statusResponse ts p x w).out, okEvent x.c v := by
  simp only [statusResponse]
  split
  · exact ⟨hi, hw⟩
  · generalize hr : (classify p.txerr p.rxerr (statusFlags p)).state = st
    have hst : st ≠ .stopped := hr ▸ classify_ne_stopped _ _ _
    have k0 : chanInv x.cfg (if st ≠ w.ch.busState then sendErr x (responseEvent x ts p w.ch.busState)
        (changeState x st w) else w).ch ∧ ∀ v ∈ (if st ≠ w.ch.busState then
        sendErr x (responseEvent x ts p w.ch.busState) (changeState x st w) else w).out, okEvent x.c v := by
      split
      · obtain ⟨i1, o1⟩ := changeState_ok x st w hc hst hi hw
        exact sendErr_ok x _ _ i1 o1
      · exact ⟨hi, hw⟩
    revert k0
    generalize (if st ≠ w.ch.busState then sendErr x (responseEvent x ts p w.ch.busState) (changeState x st w) else w) = w1
    intro k0
    split
    · exact ⟨chanInv_congr k0.1 rfl rfl rfl rfl rfl rfl rfl rfl rfl, k0.2⟩
    · exact ⟨chanInv_congr k0.1 rfl rfl rfl rfl rfl rfl rfl rfl rfl, k0.2⟩

theorem good_handleStatus (ts : Stamp) (p : StatusPkt) : Good (handleStatus ts p) := by
  intro x w hl hn hi hw
  have hc := cfgLegal_chan hl hn
  simp only [handleStatus]
  split
  · exact startDone_ok x w hc hi hw
  · split
    · exact retrigger_ok x w hc hi hw
    · split
      · next h =>
        simp only [isEndOfFlush, Bool.and_eq_true] at h
        exact eofOrDefer_ok x w hc h.1.1 hi hw
      · split
        · exact statusResponse_ok ts p x w hc hi hw
        · simp only [ignoreStatus]; split <;> exact ⟨hi, hw⟩

/-! ### The tick -/

theorem waitExpire_ok (x : Ctx) (w : Work) (h0 : w.ch.waitCnt = 0) (g2 : w.ch.op = .stop → w.ch.stage = .waitFlush)
    (hf : flowInv w.ch) (hr : ringInv x.cfg w.ch) (hw : ∀ v ∈ w.out, okEvent x.c v) :
    chanInv x.cfg (waitExpire x w).ch ∧ ∀ v ∈ (waitExpire x w).out, okEvent x.c v := by
  obtain ⟨h1, h2, h3, h4⟩ := hf
  simp only [waitExpire]
  split
  · next ho =>
    exact ⟨by simp_all [chanInv, waitInv, flowInv, ringInv], emit_okOut hw (okEvent_opDone ..)⟩
  · next ho => exact stopDone_ok _ _ _ hr rfl (h4 ho) hw
  · next ho =>
    refine ⟨⟨⟨by simp [ho, h0], g2, by simp [ho]⟩, ⟨h1, h2, h3, h4⟩, hr⟩, hw⟩

theorem good_tickWait : Good tickWait := by
  intro x w hl hn hi hw
  simp only [tickWait]
  split
  · exact ⟨hi, hw⟩
  · next hne =>
    obtain ⟨⟨g1, g2, g3⟩, hf, hr⟩ := hi
    split
    · next h0 => exact waitExpire_ok x _ h0 g2 hf hr hw
    · next h0 =>
      refine ⟨⟨⟨⟨fun h => absurd (g1.1 h) hne, fun h => absurd h h0⟩, g2, g3⟩, hf, hr⟩, hw⟩

theorem good_pollExpire : Good pollExpire := by
  intro x w hl hn hi hw
  have hc := cfgLegal_chan hl hn
  simp only [pollExpire]
  split
  · exact ⟨chanInv_congr hi rfl rfl rfl rfl rfl rfl rfl rfl rfl, hw⟩
  · split
    · exact ⟨hi, hw⟩
    · refine ⟨chanInv_congr hi rfl rfl rfl rfl rfl rfl rfl rfl rfl, ?_⟩
      exact emit_okOut (emit_okOut hw (okEvent_setEpen hc)) (okEvent_writeCommand hc ..)

theorem good_tickPoll : Good tickPoll := by
  intro x w hl hn hi hw
  simp only [tickPoll]
  split
  · exact ⟨hi, hw⟩
  · split
    · exact good_pollExpire x _ hl hn (chanInv_congr hi rfl rfl rfl rfl rfl rfl rfl rfl rfl) hw
    · exact ⟨chanInv_congr hi rfl rfl rfl rfl rfl rfl rfl rfl rfl, hw⟩

theorem good_tickChan : Good tickChan := by
  intro x w hl hn hi hw
  obtain ⟨i1, o1⟩ := good_tickWait x w hl hn hi hw
  exact good_tickPoll x _ hl hn i1 o1

/-! ### The echo tracker -/

theorem good_requestSubmit (f : TxFrame) (a b : Byte) : Good (requestSubmit f a b) := by
  intro x w hl hn hi hw
  have hc := cfgLegal_chan hl hn
  simp only [requestSubmit]
  split
  · exact ⟨hi, hw⟩
  · next hv =>
    split
    · exact ⟨hi, hw⟩
    · split
      · exact ⟨hi, hw⟩
      · have hv' : validFrame x.cfg x.c f = true := by simpa using hv
        have hk : 0 < x.cfg.k := by obtain ⟨_, _, h, _⟩ := hl; omega
        obtain ⟨hwt, hfl, hr1, hr2⟩ := hi
        set w1 : Work := (w.upd fun ch => { fillSlot w.ch.echoIdx f ch with echoIdx := (w.ch.echoIdx + 1) % x.cfg.k }).emit
          (.txFifo x.c (encodeTx f w.ch.echoIdx (chanCfg x.cfg x.c).oneshot)) with hw1
        have i1 : chanInv x.cfg w1.ch := by
          refine ⟨hwt, hfl, ?_, Nat.mod_lt _ hk⟩
          simp only [hw1, Work.emit_ch, Work.upd_ch, fillSlot_slots_length]; exact hr1
        have o1 : ∀ v ∈ w1.out, okEvent x.c v := emit_okOut hw (okEvent_txFifo hc hv' _ _)
        show chanInv x.cfg (stopCheck x b w1).ch ∧ ∀ v ∈ (stopCheck x b w1).out, okEvent x.c v
        simp only [stopCheck]
        split
        · refine ⟨?_, setTx_okOut _ _ _ _ o1⟩
          rw [setTx_ch]; exact i1
        · exact ⟨i1, o1⟩

theorem resumeCheck_ok (x : Ctx) (w : Work) (hi : chanInv x.cfg w.ch) (hw : ∀ v ∈ w.out, okEvent x.c v) :
    chanInv x.cfg (resumeCheck x w).ch ∧ ∀ v ∈ (resumeCheck x w).out, okEvent x.c v := by
  simp only [resumeCheck]
  split
  · refine ⟨?_, setTx_okOut _ _ _ _ hw⟩
    rw [setTx_ch]; exact hi
  · exact ⟨hi, hw⟩

theorem releaseSlot_ok (cfg : Cfg) (i : Nat) (ch : Chan) (hi : chanInv cfg ch) : chanInv cfg (releaseSlot i ch) :=
  chanInv_congr hi rfl rfl rfl rfl rfl rfl rfl (releaseSlot_slots_length i ch) rfl

theorem ackSlot_ok (ts : Stamp) (p : AckPkt) (x : Ctx) (w : Work) (hi : chanInv x.cfg w.ch)
    (hw : ∀ v ∈ w.out, okEvent x.c v) :
    chanInv x.cfg (ackSlot ts p x w).ch ∧ ∀ v ∈ (ackSlot ts p x w).out, okEvent x.c v := by
  simp only [ackSlot]
  split
  · exact ⟨hi, hw⟩
  · split
    · exact ⟨releaseSlot_ok _ _ _ hi, hw⟩
    · simp only [release]
      apply resumeCheck_ok
      · split <;> exact chanInv_congr (releaseSlot_ok _ _ _ hi) rfl rfl rfl rfl rfl rfl rfl rfl rfl
      · split <;> exact emit_okOut hw (okEvent_onTxComplete ..)

theorem good_handleAck (ts : Stamp) (p : AckPkt) : Good (handleAck ts p) := by
  intro x w hl hn hi hw
  have hc := cfgLegal_chan hl hn
  simp only [handleAck]
  split
  · exact ⟨hi, hw⟩
  · have k1 : chanInv x.cfg (handleNack ts p x w).ch ∧ ∀ v ∈ (handleNack ts p x w).out, okEvent x.c v := by
      simp only [handleNack]; split
      · exact sendErr_ok x _ _ hi hw
      · exact ⟨hi, hw⟩
    obtain ⟨i2, o2⟩ := ackSlot_ok ts p x _ k1.1 k1.2
    simp only [deferredEof]
    split
    · exact sendEof_ok x _ hc i2 o2
    · exact ⟨i2, o2⟩

end Sys2Proof.Machine
end

