-- ==== Sys2Proof/Laws/PerInstr.lean ====
section
/-! SUPPORT. Statements made for each instruction: the fixed bits of its row of spec/opcode_table.json stand in the word
of its encoding that the row describes. -/

namespace Sys2Proof.Laws

/-- The word of an encoded operation that its row of spec/opcode_table.json gives bits of: `word1` of a ring packet, the
size word of a marker, the value of a register write (`t1` of a TX frame), the event code of a request. -/
def tableWord : Fetched → Word
  | .ring [w] => w
  | .ring ws => ws.getD 2 0
  | .reg (.cmd _ w) | .reg (.ctrl _ w) | .reg (.mode _ _ w) => w
  | .reg (.fifo _ ws) => ws.getD 1 0
  | .port m => m.code.setWidth 32

/-- Bits `hi` to `lo` of that word hold `v`. -/
def hasBits (i : Instr) (hi lo v : Nat) : Prop := (field (tableWord (encode i)) lo (hi + 1 - lo)).toNat = v

/-- The fixed bits of an instruction's row of spec/opcode_table.json. -/
def RowBits.Statement : Instr → Prop
  | i@(.data _ _) => hasBits i 31 28 0
  | i@(.ack _ _) => hasBits i 31 28 1
  | i@(.txrq _ _) => hasBits i 31 28 2
  | i@(.error _ _) => hasBits i 31 28 3
  | i@(.eflushAck _ _) => hasBits i 31 28 4
  | i@(.eframeAck _ _) => hasBits i 31 28 5
  | i@(.ackData _ _) => hasBits i 31 28 6
  | i@(.unknown7 _ _) => hasBits i 31 28 7
  | i@(.status _ _) => hasBits i 31 28 8
  | i@(.busLoad _ _) => hasBits i 31 28 9
  | i@(.unknownA _ _) => hasBits i 31 28 10
  | i@(.unknownB _ _) => hasBits i 31 28 11
  | i@(.unknownC _ _) => hasBits i 31 28 12
  | i@(.unknownD _ _) => hasBits i 31 28 13
  | i@(.unknownE _ _) => hasBits i 31 28 14
  | i@(.unknownF _ _) => hasBits i 31 28 15
  | i@(.endMark) => hasBits i 31 0 0
  | i@(.undersize1) => hasBits i 31 0 1
  | i@(.undersize2) => hasBits i 31 0 2
  | i@(.undersize3) => hasBits i 31 0 3
  | i@(.undersize4) => hasBits i 31 0 4
  | i@(.requestStatus _ _) => hasBits i 15 0 1 ∧ hasBits i 31 24 0
  | i@(.abortFlushReset _ _) => hasBits i 15 0 2 ∧ hasBits i 31 24 0
  | i@(.eflush _) => hasBits i 31 0 0x80000000
  | i@(.modeClearRm _) => hasBits i 8 8 0
  | i@(.modeClearEpen _) => hasBits i 12 12 0
  | i@(.modeSetEpen _) => hasBits i 12 12 1
  | i@(.txFrame _ _) => hasBits i 31 31 1
  | i@(.attach _) => hasBits i 7 0 0x00
  | i@(.detach) => hasBits i 7 0 0x01
  | i@(.buson _) => hasBits i 7 0 0x10
  | i@(.stop _) => hasBits i 7 0 0x11
  | i@(.submit _ _ _ _) => hasBits i 7 0 0x12
  | i@(.tick) => hasBits i 7 0 0x20
  | i@(.rxReady _) => hasBits i 7 0 0x30
  | i@(.txStatus _) => hasBits i 7 0 0x31
  | i@(.dmaOverflow _) => hasBits i 7 0 0x32
  | i@(.dmaUnderflow _) => hasBits i 7 0 0x33

/-! ### The words of a ring packet -/

theorem tableWord_ringWords (h : Hdr) (typ : BitVec 4) (w0 w1 : Word) (pl : List Word) :
    tableWord (.ring (ringWords h typ w0 w1 pl)) = ringWord1 h typ w1 := rfl

/-- The `TYPE` bits of an assembled packet whose `word1` fields lie below them. -/
theorem hasBits_type {i : Instr} {h : Hdr} {typ : BitVec 4} {w0 w1 : Word} {pl : List Word}
    (hi : encode i = .ring (ringWords h typ w0 w1 pl)) (h0 : field w1 28 4 = 0) : hasBits i 31 28 typ.toNat := by
  simp only [hasBits, hi, tableWord_ringWords]
  exact congrArg BitVec.toNat (type_ringWord1 h typ w1 h0)

/-- A command word: its low half is the command, its top byte is zero. -/
theorem encodeCmd_fixed (q : Byte) (op : Opcode) :
    (field (encodeCmd q op) 0 16).toNat = (match op with | .requestStatus => 1 | .abortFlushReset => 2) ∧
      (field (encodeCmd q op) 24 8).toNat = 0 := by
  cases op <;> simp only [encodeCmd, field_or] <;>
    rw [field_putField_disjoint _ _ _ (by omega), field_putField_disjoint _ _ _ (by omega)] <;> decide

namespace RowBits

theorem data (h : Hdr) (p : DataPkt) : Statement (.data h p) := by
  show hasBits _ 31 28 (0 : BitVec 4).toNat
  refine hasBits_type (show _ = Fetched.ring (ringWords h 0 _ _ _) from rfl) ?_
  simp (disch := omega) [field_or, field_putField_disjoint, field_putBit]
theorem ack (h : Hdr) (p : AckPkt) : Statement (.ack h p) := by
  show hasBits _ 31 28 (1 : BitVec 4).toNat
  refine hasBits_type (show _ = Fetched.ring (ringWords h 1 _ _ _) from rfl) ?_
  exact field_zero ..
theorem txrq (h : Hdr) (p : OpaquePkt) : Statement (.txrq h p) := by
  show hasBits _ 31 28 (2 : BitVec 4).toNat
  refine hasBits_type (show _ = Fetched.ring (ringWords h 2 _ _ _) from rfl) ?_
  exact field_putField_disjoint _ _ _ (by omega)
theorem error (h : Hdr) (p : ErrorPkt) : Statement (.error h p) := by
  show hasBits _ 31 28 (3 : BitVec 4).toNat
  refine hasBits_type (show _ = Fetched.ring (ringWords h 3 _ _ _) from rfl) ?_
  simp (disch := omega) [field_or, field_putBit]
theorem eflushAck (h : Hdr) (q : Byte) : Statement (.eflushAck h q) := by
  show hasBits _ 31 28 (4 : BitVec 4).toNat
  refine hasBits_type (show _ = Fetched.ring (ringWords h 4 _ _ _) from rfl) ?_
  exact field_putField_disjoint _ _ _ (by omega)
theorem eframeAck (h : Hdr) (p : OpaquePkt) : Statement (.eframeAck h p) := by
  show hasBits _ 31 28 (5 : BitVec 4).toNat
  refine hasBits_type (show _ = Fetched.ring (ringWords h 5 _ _ _) from rfl) ?_
  exact field_putField_disjoint _ _ _ (by omega)
theorem ackData (h : Hdr) (p : OpaquePkt) : Statement (.ackData h p) := by
  show hasBits _ 31 28 (6 : BitVec 4).toNat
  refine hasBits_type (show _ = Fetched.ring (ringWords h 6 _ _ _) from rfl) ?_
  exact field_putField_disjoint _ _ _ (by omega)
theorem unknown7 (h : Hdr) (p : OpaquePkt) : Statement (.unknown7 h p) := by
  show hasBits _ 31 28 (7 : BitVec 4).toNat
  refine hasBits_type (show _ = Fetched.ring (ringWords h 7 _ _ _) from rfl) ?_
  exact field_putField_disjoint _ _ _ (by omega)
theorem status (h : Hdr) (p : StatusPkt) : Statement (.status h p) := by
  show hasBits _ 31 28 (8 : BitVec 4).toNat
  refine hasBits_type (show _ = Fetched.ring (ringWords h 8 _ _ _) from rfl) ?_
  simp (disch := omega) [field_or, field_putField_disjoint, field_putBit]
theorem busLoad (h : Hdr) (p : OpaquePkt) : Statement (.busLoad h p) := by
  show hasBits _ 31 28 (9 : BitVec 4).toNat
  refine hasBits_type (show _ = Fetched.ring (ringWords h 9 _ _ _) from rfl) ?_
  exact field_putField_disjoint _ _ _ (by omega)
theorem unknownA (h : Hdr) (p : OpaquePkt) : Statement (.unknownA h p) := by
  show hasBits _ 31 28 (10 : BitVec 4).toNat
  refine hasBits_type (show _ = Fetched.ring (ringWords h 10 _ _ _) from rfl) ?_
  exact field_putField_disjoint _ _ _ (by omega)
theorem unknownB (h : Hdr) (p : OpaquePkt) : Statement (.unknownB h p) := by
  show hasBits _ 31 28 (11 : BitVec 4).toNat
  refine hasBits_type (show _ = Fetched.ring (ringWords h 11 _ _ _) from rfl) ?_
  exact field_putField_disjoint _ _ _ (by omega)
theorem unknownC (h : Hdr) (p : OpaquePkt) : Statement (.unknownC h p) := by
  show hasBits _ 31 28 (12 : BitVec 4).toNat
  refine hasBits_type (show _ = Fetched.ring (ringWords h 12 _ _ _) from rfl) ?_
  exact field_putField_disjoint _ _ _ (by omega)
theorem unknownD (h : Hdr) (p : OpaquePkt) : Statement (.unknownD h p) := by
  show hasBits _ 31 28 (13 : BitVec 4).toNat
  refine hasBits_type (show _ = Fetched.ring (ringWords h 13 _ _ _) from rfl) ?_
  exact field_putField_disjoint _ _ _ (by omega)
theorem unknownE (h : Hdr) (p : OpaquePkt) : Statement (.unknownE h p) := by
  show hasBits _ 31 28 (14 : BitVec 4).toNat
  refine hasBits_type (show _ = Fetched.ring (ringWords h 14 _ _ _) from rfl) ?_
  exact field_putField_disjoint _ _ _ (by omega)
theorem unknownF (h : Hdr) (p : OpaquePkt) : Statement (.unknownF h p) := by
  show hasBits _ 31 28 (15 : BitVec 4).toNat
  refine hasBits_type (show _ = Fetched.ring (ringWords h 15 _ _ _) from rfl) ?_
  exact field_putField_disjoint _ _ _ (by omega)
theorem endMark : Statement .endMark := rfl
theorem undersize1 : Statement .undersize1 := rfl
theorem undersize2 : Statement .undersize2 := rfl
theorem undersize3 : Statement .undersize3 := rfl
theorem undersize4 : Statement .undersize4 := rfl
theorem requestStatus (c : Nat) (q : Byte) : Statement (.requestStatus c q) := encodeCmd_fixed q .requestStatus
theorem abortFlushReset (c : Nat) (q : Byte) : Statement (.abortFlushReset c q) := encodeCmd_fixed q .abortFlushReset
theorem eflush (c : Nat) : Statement (.eflush c) := rfl
theorem modeClearRm (c : Nat) : Statement (.modeClearRm c) := by
  show (field (0 : Word) 8 1).toNat = 0
  decide
theorem modeClearEpen (c : Nat) : Statement (.modeClearEpen c) := by
  show (field (0 : Word) 12 1).toNat = 0
  decide
theorem modeSetEpen (c : Nat) : Statement (.modeSetEpen c) := by
  show (field (maskEpen : Word) 12 1).toNat = 1
  decide
theorem txFrame (c : Nat) (f : TxWords) : Statement (.txFrame c f) := by
  show (field (putField f.seq 0 ||| putField f.dlc 8 ||| putBit f.esi 13 ||| putBit f.brs 14 ||| putBit f.fdf 15 |||
    putBit f.sms 16 ||| putBit true 31) 31 1).toNat = 1
  simp (disch := omega) only [field_or, field_putField_disjoint, field_putBit]
  decide
theorem attach (cfg : Cfg) : Statement (.attach cfg) := rfl
theorem detach : Statement .detach := rfl
theorem buson (c : Nat) : Statement (.buson c) := rfl
theorem stop (c : Nat) : Statement (.stop c) := rfl
theorem submit (c : Nat) (f : TxFrame) (hwPre hwPost : Byte) : Statement (.submit c f hwPre hwPost) := rfl
theorem tick : Statement .tick := rfl
theorem rxReady (b : Buf) : Statement (.rxReady b) := rfl
theorem txStatus (c : Nat) : Statement (.txStatus c) := rfl
theorem dmaOverflow (b : Buf) : Statement (.dmaOverflow b) := rfl
theorem dmaUnderflow (b : Buf) : Statement (.dmaUnderflow b) := rfl

end RowBits

end Sys2Proof.Laws
end

