-- ==== Sys2Proof/Laws/Step.lean ====
section
/-! SUPPORT. What the fetch answers, case by case. -/

namespace Sys2Proof.Machine

/-! ### The order of the streams -/

theorem nextOp_outbox {s : State} {w : RegWrite} {rest : List RegWrite} (h : s.outbox = w :: rest) :
    nextOp s = runFetched (.reg w) { s with outbox := rest } := by
  cases s; cases h; rfl

theorem nextOp_request {s : State} {m : PortMsg} {rest : List Arrival} (h : s.outbox = [])
    (h' : s.arrivals = .request m :: rest) : nextOp s = runFetched (.port m) { s with arrivals := rest } := by
  cases s; cases h; cases h'; rfl

theorem nextOp_fill {s : State} {b : Buf} {off : Nat} {bytes : List Byte} {rest : List Arrival} (h : s.outbox = [])
    (h' : s.arrivals = .fill b off bytes :: rest) :
    nextOp s = .own (hardwareFill b off bytes { s with arrivals := rest }) := by
  cases s; cases h; cases h'; rfl

theorem nextOp_turn {s : State} {d : Draw} {k : Nat} {rest : List Arrival} (h : s.outbox = [])
    (h' : s.arrivals = .turn d k :: rest) : nextOp s = notifyTurn k { s with arrivals := rest, draw := d } := by
  cases s; cases h; cases h'; rfl

theorem nextOp_busy {s : State} (h : s.outbox = []) (h' : s.arrivals = []) (hb : s.notifyBusy = true) :
    nextOp s = notifyTurn (Config.freePick s.freeCount) s.drawFree := by
  cases s; cases h; cases h'; cases hb; rfl

theorem nextOp_held {s : State} (h : s.outbox = []) (h' : s.arrivals = []) (hh : s.held ≠ []) :
    nextOp s = notifyTurn (Config.freePick s.freeCount) s.drawFree := by
  simp only [nextOp, h, h', List.isEmpty_eq_false_iff.2 hh, Bool.not_false, Bool.or_true, if_true]

theorem nextOp_idle {s : State} (h : s.outbox = []) (h' : s.arrivals = []) (hb : s.notifyBusy = false)
    (hh : s.held = []) : nextOp s = .own (.next s) := by
  cases s; cases h; cases h'; cases hb; cases hh; rfl

theorem notifyTurn_busy {s : State} (k : Nat) (h : s.notifyBusy = true) : notifyTurn k s = ringTurn s := if_pos h

/-- The handler's turn while a buffer is consumed, with or without an input. -/
theorem nextOp_handlerTurn {s s' : State} (h : handlerTurn s s') (hb : s.notifyBusy = true) : nextOp s = ringTurn s' := by
  obtain ⟨ho, ⟨d, k, rest, ha, rfl⟩ | ⟨ha, rfl⟩⟩ := h
  · rw [nextOp_turn ho ha, notifyTurn_busy k (by exact hb)]
  · rw [nextOp_busy ho ha hb, notifyTurn_busy _ (by exact hb)]; rfl

theorem step_run {s s' : State} {i : Instr} (h : nextOp s = .run i s') : step s = exec i s' := by
  simp only [step, h]

theorem step_own {s : State} {o : Host.Outcome State Fault Refusal} (h : nextOp s = .own o) : step s = o := by
  simp only [step, h]

/-! ### The handler's turn -/

theorem ringTurn_ok {s : State} {i : Instr} (hc : s.cursor.get s.curBuf < 1024)
    (hd : decodeRing (bufWordsFrom s.mem s.curBuf (s.cursor.get s.curBuf)) = .ok i) : ringTurn s = .run i s := by
  unfold ringTurn
  rw [if_neg (show ¬ Config.bufWords ≤ s.cursor.get s.curBuf by simpa [Config.bufWords] using hc)]
  simp only [hd]

theorem ringTurn_error {s : State} {e : DecodeError} (hc : s.cursor.get s.curBuf < 1024)
    (hd : decodeRing (bufWordsFrom s.mem s.curBuf (s.cursor.get s.curBuf)) = .error e) :
    ringTurn s = .own (s.malformed .overrun) := by
  unfold ringTurn
  rw [if_neg (show ¬ Config.bufWords ≤ s.cursor.get s.curBuf by simpa [Config.bufWords] using hc)]
  simp only [hd]

theorem ringTurn_bound {s : State} (hc : 1024 ≤ s.cursor.get s.curBuf) : ringTurn s = .own s.stopQuietly := by
  unfold ringTurn
  rw [if_pos (show Config.bufWords ≤ s.cursor.get s.curBuf from hc)]

/-- A turn of the ring consumer: the bound, a malformed packet, or the decoded item. -/
theorem ringTurn_cases (s : State) :
    (1024 ≤ s.cursor.get s.curBuf ∧ ringTurn s = .own s.stopQuietly) ∨
      (s.cursor.get s.curBuf < 1024 ∧ ringTurn s = .own (s.malformed .overrun)) ∨
      ∃ i, s.cursor.get s.curBuf < 1024 ∧
        decodeRing (bufWordsFrom s.mem s.curBuf (s.cursor.get s.curBuf)) = .ok i ∧ ringTurn s = .run i s := by
  by_cases hc : 1024 ≤ s.cursor.get s.curBuf
  · exact .inl ⟨hc, ringTurn_bound hc⟩
  · rw [Nat.not_le] at hc
    cases hd : decodeRing (bufWordsFrom s.mem s.curBuf (s.cursor.get s.curBuf)) with
    | ok i => exact .inr (.inr ⟨i, hc, rfl, ringTurn_ok hc hd⟩)
    | error e => exact .inr (.inl ⟨hc, ringTurn_error hc hd⟩)

/-! ### The pending sources -/

/-- What is taken from the pending sources is one of them, and the others stay in their order. -/
theorem takeHeld_some {k : Nat} {held rest : List Instr} {i : Instr} (h : takeHeld k held = some (i, rest)) :
    held[k % held.length]? = some i ∧ rest = held.eraseIdx (k % held.length) := by
  simpa [takeHeld, Option.map_eq_some_iff, eq_comm] using h

/-- Any pending source can be the one that is taken (R284). -/
theorem takeHeld_of_get {k : Nat} {held : List Instr} {i : Instr} (h : held[k]? = some i) :
    takeHeld k held = some (i, held.eraseIdx k) := by
  have hk := (List.getElem?_eq_some_iff.1 h).1
  simp only [takeHeld, Nat.mod_eq_of_lt hk, h, Option.map_some]

/-- Whatever number picks, one of the pending sources is taken. -/
theorem takeHeld_isSome {k : Nat} {held : List Instr} (h : held ≠ []) : (takeHeld k held).isSome = true := by
  have hk : k % held.length < held.length := Nat.mod_lt _ (List.length_pos_iff.2 h)
  simp [takeHeld, List.getElem?_eq_getElem hk]

/-- The handler's turn: the running consumption, a held notification, or nothing. -/
theorem notifyTurn_cases (k : Nat) (s : State) :
    (s.notifyBusy = true ∧ notifyTurn k s = ringTurn s) ∨
      (s.notifyBusy = false ∧ ∃ i, s.held[k % s.held.length]? = some i ∧
        notifyTurn k s = .run i { s with held := s.held.eraseIdx (k % s.held.length) }) ∨
      (s.notifyBusy = false ∧ s.held = [] ∧ notifyTurn k s = .own (.next s)) := by
  cases hb : s.notifyBusy with
  | true => exact .inl ⟨rfl, notifyTurn_busy k hb⟩
  | false =>
    cases ht : takeHeld k s.held with
    | none =>
      refine .inr (.inr ⟨rfl, ?_, by simp [notifyTurn, hb, ht]⟩)
      by_contra hh
      have := takeHeld_isSome (k := k) hh
      simp [ht] at this
    | some ir =>
      obtain ⟨h1, h2⟩ := takeHeld_some (i := ir.1) (rest := ir.2) ht
      exact .inr (.inl ⟨rfl, ir.1, h1, by simp [notifyTurn, hb, ht, h2]⟩)

end Sys2Proof.Machine
end

