-- ==== Sys2Proof/Tests/Slice0.lean ====
section
/-! SUPPORT. Tests: ill-formed terms that WellFormed refuses, words written out from the spec's tables and their
decoding, single steps with the outputs 95_test_vectors.md gives, and for every statement with hypotheses a state and
operands that meet them. Expected values come from the spec's files named in the docstrings. -/

namespace Sys2Proof.Tests

open Sys2Proof.Machine

/-! ### WellFormed refuses ill-formed terms -/

/-- A header of five words on channel 0. -/
def hdr : Hdr := ⟨5, 0, 0⟩

/-- A valid classic frame of one byte (95_test_vectors.md S4). -/
def frame : TxFrame := ⟨1, false, false, false, false, false, 1, [0]⟩

theorem test_wf_size_small : (Instr.ack ⟨4, 0, 0⟩ ⟨0, false, false, false, false⟩).wellFormed = false := by decide
theorem test_wf_size_large : (Instr.eflushAck ⟨1025, 0, 0⟩ 0).wellFormed = false := by decide
theorem test_wf_size_not_length : (Instr.ack ⟨9, 0, 0⟩ ⟨0, false, false, false, false⟩).wellFormed = false := by decide
theorem test_wf_data_size : (Instr.data hdr ⟨0, false, false, 8, false, false, false, List.replicate 8 0⟩).wellFormed = false := by
  decide
theorem test_wf_data_length : (Instr.data hdr ⟨0, false, false, 2, false, false, false, [1]⟩).wellFormed = false := by decide
theorem test_wf_data_remote : (Instr.data hdr ⟨0, true, false, 1, false, false, false, [1]⟩).wellFormed = false := by decide
theorem test_wf_opaque : (Instr.txrq hdr ⟨0, 0, [7]⟩).wellFormed = false := by decide
theorem test_wf_command_channel : (Instr.requestStatus 4 0).wellFormed = false := by decide
theorem test_wf_request_channel : (Instr.buson 4).wellFormed = false := by decide
theorem test_wf_tx_classic : (Instr.txFrame 0 ⟨0, false, false, 0, 9, false, false, false, false, List.replicate 12 0⟩).wellFormed = false := by
  decide
theorem test_wf_tx_length : (Instr.txFrame 0 ⟨0, false, false, 0, 2, false, false, false, false, [1]⟩).wellFormed = false := by
  decide
theorem test_wf_frame : (Instr.submit 0 { frame with len := 65 } 0 0).wellFormed = false := by decide

/-! ### Words written out from the spec's encodings -/

/-- E1 of 95_test_vectors.md: payload bytes in frame order, padding not read; a remote frame has none; a classic frame of
`DLC` 9 has 8 bytes, and its words are those of its encoding. -/
theorem test_decode_data :
    encode (.data ⟨7, 0, 1⟩ ⟨0x100, false, false, 9, false, false, false, [1, 2, 3, 4, 5, 6, 7, 8]⟩) =
      .ring [7, 0x00000100, 0x00000900, 1, 0, 0x04030201, 0x08070605] ∧
    decode (.ring [7, 0x00000100, 0x00000900, 1, 0, 0x04030201, 0x08070605]) =
      .ok (.data ⟨7, 0, 1⟩ ⟨0x100, false, false, 9, false, false, false, [1, 2, 3, 4, 5, 6, 7, 8]⟩) ∧
    decode (.ring [7, 0x00000010, 0x00000500, 2, 0, 0xA4A3A2A1, 0xFFFFFFA5]) =
      .ok (.data ⟨7, 0, 2⟩ ⟨0x10, false, false, 5, false, false, false, [0xA1, 0xA2, 0xA3, 0xA4, 0xA5]⟩) ∧
    decode (.ring [5, 0x200007FF, 0x04000300, 5, 0]) =
      .ok (.data ⟨5, 2, 5⟩ ⟨0x7FF, true, false, 3, false, false, false, []⟩) ∧
    decode (.ring [8, 0x00000555, 0x0600A900, 0, 1, 0x03020100, 0x07060504, 0x0B0A0908]) =
      .ok (.data ⟨8, 3, 0x100000000⟩ ⟨0x555, false, false, 9, true, false, true, [0, 1, 2, 3, 4, 5, 6, 7, 8, 9, 10, 11]⟩) := by
  decide

/-- E2: the flags of `ACK`. -/
theorem test_decode_ack :
    decode (.ring [5, 0x00000903, 0x10000000, 0, 0]) = .ok (.ack ⟨5, 0, 0⟩ ⟨3, true, false, false, true⟩) ∧
    decode (.ring [5, 0x00000C00, 0x10000000, 9, 0]) = .ok (.ack ⟨5, 0, 9⟩ ⟨0, false, false, true, true⟩) ∧
    decode (.ring [5, 0x00000200, 0x10000000, 0, 0]) = .ok (.ack ⟨5, 0, 0⟩ ⟨0, false, true, false, false⟩) := by
  decide

/-- E3: the flags of `STATUS`. -/
theorem test_decode_status :
    decode (.ring [5, 0x00300000, 0x80200001, 0, 0]) =
      .ok (.status ⟨5, 0, 0⟩ ⟨1, 0, 0, false, true, true, false, true, false, false⟩) ∧
    decode (.ring [5, 0x00000AC8, 0x850000FF, 3, 0]) =
      .ok (.status ⟨5, 2, 3⟩ ⟨255, 200, 10, false, false, false, false, false, false, true⟩) := by
  decide

/-- E4: `ERROR`, with the direction bit. -/
theorem test_decode_error :
    decode (.ring [5, 0x00008200, 0x33000000, 0, 0]) = .ok (.error ⟨5, 1, 0⟩ ⟨0, 130, false, false, false, true, false⟩) ∧
    decode (.ring [5, 0x00200000, 0x34000000, 0, 0]) = .ok (.error ⟨5, 2, 0⟩ ⟨0, 0, false, true, false, false, false⟩) ∧
    decode (.ring [5, 0x00010000, 0x30800001, 0, 0]) = .ok (.error ⟨5, 0, 0⟩ ⟨0, 0, true, false, true, false, true⟩) := by
  decide

/-- E5 and the `TYPE` codes of R90: the types without a handler. -/
theorem test_decode_opaque :
    decode (.ring [5, 0, 0x42000005, 0, 0]) = .ok (.eflushAck ⟨5, 1, 0⟩ 5) ∧
    decode (.ring [5, 0, 0x20000000, 0, 0]) = .ok (.txrq ⟨5, 0, 0⟩ ⟨0, 0, []⟩) ∧
    decode (.ring [5, 0, 0x50000000, 0, 0]) = .ok (.eframeAck ⟨5, 0, 0⟩ ⟨0, 0, []⟩) ∧
    decode (.ring [7, 0, 0x60000000, 0, 0, 8, 9]) = .ok (.ackData ⟨7, 0, 0⟩ ⟨0, 0, [8, 9]⟩) ∧
    decode (.ring [6, 0, 0x70000000, 0, 0, 3]) = .ok (.unknown7 ⟨6, 0, 0⟩ ⟨0, 0, [3]⟩) ∧
    decode (.ring [5, 0, 0x92000000, 0, 0]) = .ok (.busLoad ⟨5, 1, 0⟩ ⟨0, 0, []⟩) := by
  decide

/-- R90: the other unassigned `TYPE` codes. -/
theorem test_decode_unassigned :
    decode (.ring [5, 0, 0xA0000000, 0, 0]) = .ok (.unknownA hdr ⟨0, 0, []⟩) ∧
    decode (.ring [5, 0, 0xB0000000, 0, 0]) = .ok (.unknownB hdr ⟨0, 0, []⟩) ∧
    decode (.ring [5, 0, 0xC0000000, 0, 0]) = .ok (.unknownC hdr ⟨0, 0, []⟩) ∧
    decode (.ring [5, 0, 0xD0000000, 0, 0]) = .ok (.unknownD hdr ⟨0, 0, []⟩) ∧
    decode (.ring [5, 0, 0xE0000000, 0, 0]) = .ok (.unknownE hdr ⟨0, 0, []⟩) ∧
    decode (.ring [5, 0, 0xF0000000, 0, 0]) = .ok (.unknownF hdr ⟨0, 0, []⟩) := by
  decide

/-- E7: the marker and malformed cases of `DECODE`. -/
theorem test_decode_markers :
    decode (.ring [0]) = .ok .endMark ∧ decode (.ring [1]) = .ok .undersize1 ∧ decode (.ring [2]) = .ok .undersize2 ∧
    decode (.ring [3]) = .ok .undersize3 ∧ decode (.ring [4]) = .ok .undersize4 ∧
    decode (.ring [10, 0, 0, 0, 0, 0, 0, 0, 0]) = .error .overrun ∧
    decode (.ring [5, 0x00000123, 0x00000800, 0, 0]) = .error .overrun ∧
    decode (.ring [5, 0xFFFFF000, 0x10000000, 0, 0]) = .ok (.ack hdr ⟨0, false, false, false, false⟩) := by
  decide

/-- E6: the outbound words. -/
theorem test_decode_outbound :
    decode (.reg (.cmd 0 0x00020001)) = .ok (.requestStatus 0 2) ∧
    decode (.reg (.cmd 1 0x00FF0002)) = .ok (.abortFlushReset 1 255) ∧
    decode (.reg (.ctrl 0 0x80000000)) = .ok (.eflush 0) ∧
    decode (.reg (.mode 0 0x100 0)) = .ok (.modeClearRm 0) ∧
    decode (.reg (.mode 0 0x1000 0)) = .ok (.modeClearEpen 0) ∧
    decode (.reg (.mode 0 0x1000 0x1000)) = .ok (.modeSetEpen 0) ∧
    decode (.reg (.fifo 0 [0x00000123, 0x80000200, 0x0000BBAA])) =
      .ok (.txFrame 0 ⟨0x123, false, false, 0, 2, false, false, false, false, [0xAA, 0xBB]⟩) ∧
    decode (.reg (.cmd 0 0x00010003)) = .error (.badCommand 0x00010003) := by
  decide

/-- A request with the operand lines of a test: channel 2, buffer 1, hardware counts 3 and 4. -/
def msg (code : Byte) : PortMsg := ⟨code, Config.attachCfg, 2, 1, frame, 3, 4⟩

/-- R122: the event codes of the request port. -/
theorem test_decode_port :
    decode (.port (msg 0x00)) = .ok (.attach Config.attachCfg) ∧ decode (.port (msg 0x01)) = .ok .detach ∧
    decode (.port (msg 0x10)) = .ok (.buson 2) ∧ decode (.port (msg 0x11)) = .ok (.stop 2) ∧
    decode (.port (msg 0x12)) = .ok (.submit 2 frame 3 4) ∧ decode (.port (msg 0x20)) = .ok .tick ∧
    decode (.port (msg 0x30)) = .ok (.rxReady .b1) ∧ decode (.port (msg 0x31)) = .ok (.txStatus 2) ∧
    decode (.port (msg 0x32)) = .ok (.dmaOverflow .b1) ∧ decode (.port (msg 0x33)) = .ok (.dmaUnderflow .b1) ∧
    decode (.port (msg 0x34)) = .error (.unknownEvent 0x34) := by
  decide

/-- E6: the words of accepted frames. -/
theorem test_encodeTx :
    encodeTx { frame with id := 0x7FF, rtr := true, len := 4, data := [0, 0, 0, 0] } 3 false = [0x200007FF, 0x80000403] ∧
    encodeTx ⟨0x555, false, false, true, false, true, 12, [0, 1, 2, 3, 4, 5, 6, 7, 8, 9, 10, 11]⟩ 2 false =
      [0x00000555, 0x8000A902, 0x03020100, 0x07060504, 0x0B0A0908] ∧
    encodeTx { frame with id := 0x10, len := 5, data := [0xA1, 0xA2, 0xA3, 0xA4, 0xA5] } 7 true =
      [0x00000010, 0x80010507, 0xA4A3A2A1, 0x000000A5] := by
  decide

/-- E9: `SCALE` floors, with the divisor in whole megahertz. -/
theorem test_scale :
    scale Config.attachCfg 79 = 987 ∧ scale { Config.attachCfg with coreClockHz := 62500000 } 62 = 1000 ∧
    scale Config.attachCfg 0xFFFFFFFFFFFFFFFF = 230584300921369395187 := by
  decide

/-- R241 at the thresholds, and the half states of R242. -/
theorem test_classify :
    classify 95 0 ⟨false, false, false, false⟩ = ⟨.errorActive, .errorActive, .errorActive⟩ ∧
    classify 0 96 ⟨false, false, false, false⟩ = ⟨.errorWarning, .errorActive, .errorWarning⟩ ∧
    classify 127 127 ⟨false, false, false, false⟩ = ⟨.errorWarning, .errorWarning, .errorWarning⟩ ∧
    classify 128 0 ⟨false, false, false, true⟩ = ⟨.errorPassive, .errorPassive, .errorActive⟩ ∧
    classify 254 0 ⟨false, false, false, false⟩ = ⟨.errorPassive, .errorPassive, .errorActive⟩ ∧
    classify 255 0 ⟨false, false, false, false⟩ = ⟨.busOff, .busOff, .errorActive⟩ ∧
    classify 0 0 ⟨false, true, false, false⟩ = ⟨.busOff, .busOff, .busOff⟩ := by
  decide

/-! ### Single steps -/

/-- A stopped channel with two echo slots. -/
def stopped : Chan := resetChan [emptySlot zeroFrame, emptySlot zeroFrame]

/-- The channel 95_test_vectors.md calls "up". -/
def up : Chan := { stopped with busState := .errorActive, flushSeq := 1, rmShadow := false, stage := .waitStart, txEnabled := true }

/-- An attached device with these channels, `K` = 2. -/
def dev (chs : List Chan) : State :=
  { State.powerOn with attached := true, cfg := { Config.attachCfg with n := chs.length, k := 2 }, channels := chs }

/-- The same with a buffer under consumption. -/
def busy (chs : List Chan) : State := { dev chs with notifyBusy := true, rxPending := ⟨true, false⟩ }

/-- What one step emits. -/
def outs (s : State) : Option (List Event) :=
  match step s with
  | .next t => some t.trace
  | _ => none

/-- The channels after one step. -/
def chans (s : State) : Option (List Chan) :=
  match step s with
  | .next t => some t.channels
  | _ => none

/-- The device about to read these words of a ring item. -/
def reads (chs : List Chan) (ws : List Word) : State := placeFetched (.ring ws) (dev chs)

/-- The device about to serve this request. -/
def asked (chs : List Chan) (m : PortMsg) : State := placeFetched (.port m) (dev chs)

/-- S8: a frame of eight bytes is delivered with `ts_ns` = 200. -/
theorem test_data :
    outs (reads [stopped] [7, 0x123, 0x800, 0x10, 0, 0x44332211, 0x88776655]) =
      some [.onRxFrame 0 ⟨0x123, false, false, false, false, false, 8, [0x11, 0x22, 0x33, 0x44, 0x55, 0x66, 0x77, 0x88], 200⟩] := by
  decide

/-- S4: the acknowledgement of slot 0 of a full ring. -/
theorem test_ack :
    outs (reads [{ up with slots := [⟨true, 1, frame⟩, ⟨true, 1, frame⟩], txFull := true }] [5, 0, 0x10000000, 0, 0]) =
      some [.onTxComplete 0 0 1 0 true, .txResume 0] := by
  decide

/-- P5 step 5: the acknowledgement of an empty slot is a protocol violation. -/
theorem test_ack_unknown :
    chans (reads [stopped] [5, 0x100, 0x10000000, 0, 0]) =
      some [{ stopped with cnt := { zeroCounters with protoViolations := 1 } }] := by
  decide

/-- P3 step 2: 96 transmit errors are a warning. -/
theorem test_error :
    outs (reads [up] [5, 0x60, 0x30000001, 80, 0]) =
      some [.onBusStateChange 0 .errorActive .errorWarning,
        .onBusError 0 ⟨{ busError := true, cnt := true, crtl := true }, .errorWarning, .errorActive, 96, 0, 1000⟩] := by
  decide

/-- S6: a bus-off under manual restart forces a flush. -/
theorem test_error_bus_off :
    outs (reads [up] [5, 0x00010000, 0x30000000, 0, 0]) =
      some [.onBusStateChange 0 .errorActive .busOff, .txStop 0, .writeCommand 0 1 .abortFlushReset,
        .onBusError 0 ⟨{ busError := true, cnt := true, crtl := true, busOff := true }, .busOff, .busOff, 0, 0, 0⟩] := by
  decide

/-- The channel of P1 after step 1. -/
def flushing : Chan :=
  { stopped with cmdSeq := 1, flushSeq := 1, flushPending := true, op := .buson, waitCnt := 1000 }

/-- P1 step 1. -/
theorem test_buson :
    outs (asked [stopped] { portMsg 0x10 with chan := 0 }) = some [.writeCommand 0 1 .abortFlushReset] ∧
    chans (asked [stopped] { portMsg 0x10 with chan := 0 }) = some [flushing] := by
  decide

/-- P1 step 3: the end-of-flush. -/
theorem test_status_end_of_flush :
    outs (reads [flushing] [5, 0x00600000, 0x80200001, 0, 0]) = some [.writeControl 0] := by
  decide

/-- P1 step 4. -/
theorem test_eflushAck :
    outs (reads [flushing] [5, 0, 0x40000001, 0, 0]) = some [.setModeBits 0 0x100 0] ∧
    chans (reads [flushing] [5, 0, 0x40000001, 0, 0]) =
      some [{ flushing with flushPending := false, rmShadow := false, stage := .waitStart }] := by
  decide

/-- P1 step 5 and its end state "up". -/
theorem test_status_start :
    outs (reads [{ flushing with flushPending := false, rmShadow := false, stage := .waitStart }] [5, 0, 0x80000001, 0, 0]) =
      some [.onBusStateChange 0 .stopped .errorActive, .txResume 0, .opDone 0 .buson .ok] ∧
    chans (reads [{ flushing with flushPending := false, rmShadow := false, stage := .waitStart }] [5, 0, 0x80000001, 0, 0]) =
      some [up] := by
  decide

/-- P5 step 3. -/
theorem test_stop :
    outs (asked [up] { portMsg 0x11 with chan := 0 }) = some [.txStop 0, .writeCommand 0 1 .abortFlushReset] := by
  decide

/-- S4, second submission: the ring is full. -/
theorem test_submit :
    outs (asked [{ up with slots := [⟨true, 1, frame⟩, emptySlot zeroFrame], echoIdx := 1 }]
        { portMsg 0x12 with frame := frame, hwPre := 1, hwPost := 2 }) =
      some [.txFifo 0 [1, 0x80000101, 0], .txStop 0] := by
  decide

/-- X1: both timers expire in one tick. -/
theorem test_tick :
    outs (asked [{ up with op := .buson, waitCnt := 1, pollCnt := 1 }] (portMsg 0x20)) =
      some [.opDone 0 .buson .timeout, .setModeBits 0 0x1000 0x1000, .writeCommand 0 1 .requestStatus] := by
  decide

/-- R169: a known type without a handler, and an unassigned one, are counted. -/
theorem test_no_handler :
    chans (reads [stopped] [5, 0, 0x90000000, 0, 0]) =
      some [{ stopped with cnt := { zeroCounters with unexpectedPackets := 1 } }] ∧
    chans (reads [stopped] [6, 0, 0x70000000, 0, 0, 0xDEADBEEF]) =
      some [{ stopped with cnt := { zeroCounters with unknownPackets := 1 } }] := by
  decide

/-- S5, R163: the end marker re-arms without an error, a size of 3 counts one. -/
theorem test_markers :
    outs (reads [stopped] [0]) = some [.armDma .b0] ∧ outs (reads [stopped] [3]) = some [.armDma .b0] ∧
    (match step (reads [stopped] [3]) with | .next t => t.global.framingErrors | _ => 0) = 1 ∧
    (match step (reads [stopped] [0]) with | .next t => t.global.framingErrors | _ => 1) = 0 := by
  decide

/-- P4, position 23: a wrong declared size keeps the frame and then re-arms. -/
theorem test_framing_error :
    outs (reads [stopped] [6, 0x10, 0x500, 2, 0, 0xA4A3A2A1, 0xA5]) =
      some [.onRxFrame 0 ⟨0x10, false, false, false, false, false, 5, [0xA1, 0xA2, 0xA3, 0xA4, 0xA5], 25⟩, .armDma .b0] := by
  decide

/-- X3: `ATTACH` of five channels, of `K` = 18, of a clock below 1 MHz is refused. -/
theorem test_attach :
    cfgOk { Config.attachCfg with n := 5 } = false ∧ cfgOk { Config.attachCfg with k := 18 } = false ∧
    cfgOk { Config.attachCfg with coreClockHz := 999999 } = false ∧ cfgOk { Config.attachCfg with n := 2 } = true := by
  decide

/-- R112: a mode write leaves the other bits. -/
theorem test_mode_write :
    modeWrite 0xFFFFFFFF maskRm 0 = 0xFFFFFEFF ∧ modeWrite 0 maskEpen maskEpen = 0x1000 := by decide

/-- R61: byte 0 of a word is its lowest byte. -/
theorem test_little_endian : memRead [(4, 0x11), (5, 0x22), (6, 0x33), (7, 0x44)] .b0 1 = 0x44332211 := by decide

/-! ### Witnesses: for every statement with hypotheses, a state and operands that meet them

One theorem a clause, at a boundary of its range where it has one. -/

/-- A port arrival, a turn, and the state of a turn with nothing pending. -/
def turn : Arrival := .turn ⟨0, true⟩ 0

/-- The state in which the handler goes on after that turn. -/
def turned (s : State) : State := { s with arrivals := [], draw := ⟨0, true⟩ }

/-- The state in which it goes on with no input left. -/
def turnedFree (s : State) : State := { s with draw := Config.freeDraw s.freeCount, freeCount := s.freeCount + 1 }

theorem handlerTurn_turned {s : State} (h : s.outbox = []) (h' : s.arrivals = [turn]) : handlerTurn s (turned s) :=
  ⟨h, .inl ⟨_, _, _, h', rfl⟩⟩
theorem handlerTurn_free {s : State} (h : s.outbox = []) (h' : s.arrivals = []) : handlerTurn s (turnedFree s) :=
  ⟨h, .inr ⟨h', rfl⟩⟩

/-- A header on channel 0 with a declared size. -/
def sized (n : Nat) : Hdr := ⟨n, 0, 0⟩

theorem witness_step_register : { dev [up] with outbox := [.ctrl 0 0x80000000] }.outbox = .ctrl 0 0x80000000 :: [] ∧
    decode (.reg (.ctrl 0 0x80000000)) = .ok (.eflush 0) := by decide
theorem witness_step_request : (asked [up] (msg 0x20)).outbox = [] ∧ (asked [up] (msg 0x20)).arrivals = .request (msg 0x20) :: [] ∧
    decode (.port (msg 0x20)) = .ok .tick := by decide
theorem witness_step_ring : let s := reads [up] [0]
    handlerTurn s (turned s) ∧ s.notifyBusy = true ∧ s.cursor.get s.curBuf < 1024 ∧
    decode (.ring (bufWordsFrom s.mem s.curBuf (s.cursor.get s.curBuf))) = .ok .endMark :=
  ⟨handlerTurn_turned rfl rfl, by decide⟩
theorem witness_step_ring_free : let s := { reads [up] [0] with arrivals := [], cursor := ⟨1023, 0⟩ }
    handlerTurn s (turnedFree s) ∧ s.notifyBusy = true ∧ s.cursor.get s.curBuf < 1024 ∧
    decode (.ring (bufWordsFrom s.mem s.curBuf (s.cursor.get s.curBuf))) = .ok .endMark :=
  ⟨handlerTurn_free rfl rfl, by decide⟩
theorem witness_step_held : let s := { dev [up] with arrivals := [.turn ⟨0, true⟩ 3], held := [.txStatus 0, .rxReady .b1] }
    s.outbox = [] ∧ s.arrivals = .turn ⟨0, true⟩ 3 :: [] ∧ s.notifyBusy = false ∧
    s.held[3 % s.held.length]? = some (.rxReady .b1) := by decide
theorem witness_step_held_free : let s := { dev [up] with held := [.rxReady .b1] }
    s.outbox = [] ∧ s.arrivals = [] ∧ s.notifyBusy = false ∧
    s.held[Config.freePick s.freeCount % s.held.length]? = some (.rxReady .b1) :=
  ⟨rfl, rfl, rfl, by simp [Nat.mod_one]⟩

theorem witness_encoding : (Instr.ackData (sized 6) ⟨1, 2, [3]⟩).wellFormed = true ∧ (Instr.rxReady .b1).wellFormed = true ∧
    (Instr.txFrame 3 ⟨5, false, true, 255, 1, true, true, true, true, [9]⟩).wellFormed = true := by decide
theorem witness_round_trip : memWf [] ∧ (Instr.ack (sized 5) ⟨7, true, false, true, false⟩).wellFormed = true ∧
    encode (.ack (sized 5) ⟨7, true, false, true, false⟩) = .ring [5, 0x507, 0x10000000, 0, 0] ∧ 1019 + 5 ≤ 1024 := by decide
theorem witness_reserved_ignored : let row : BitVec 4 × Word × Word := (1, 0x00000FFF, 0xFE000000)
    row ∈ ([(0, 0x7FFFFFFF, 0xFE00EF00), (1, 0x00000FFF, 0xFE000000), (3, 0x0021FFFF, 0xFF800001),
      (4, 0x00000000, 0xFE0000FF), (8, 0x0071FFFF, 0xFFA000FF)] : List (BitVec 4 × Word × Word)) ∧
    field (0x10000000 : Word) 28 4 = row.1 ∧ (0xFFFFF000 : Word) &&& row.2.1 = 0 &&& row.2.1 ∧
    (0x10000000 : Word) &&& row.2.2 = 0x11FFFFFF &&& row.2.2 := by decide
theorem witness_reserved_written : encode (.ack (sized 5) ⟨7, true, false, true, false⟩) = .ring (5 :: 0x507 :: 0x10000000 :: [0, 0]) ∧
    field (0x10000000 : Word) 28 4 = 1 := by decide
theorem witness_transmit : len2dlc frame.len = some 1 ∧ 255 < 256 ∧ frame.data.length = frame.len := by decide
theorem witness_fill : let s := { dev [up] with arrivals := [.fill .b1 4095 [7]] }
    s.outbox = [] ∧ s.arrivals = .fill .b1 4095 [7] :: [] ∧ memWf s.mem ∧ 4095 + [7].length ≤ 4096 ∧ s.rxPending.get .b1 = false := by
  decide
theorem witness_fill_detached : let s := { State.powerOn with arrivals := [.fill .b0 0 [7]], rxPending := ⟨true, false⟩ }
    s.outbox = [] ∧ s.arrivals = .fill .b0 0 [7] :: [] ∧ memWf s.mem ∧ (s.attached = true → s.rxPending.get .b0 = false) := by
  decide
theorem witness_core_writes : exec .detach (dev [up]) = .next { dev [up] with attached := false, channels := [], ret := none } := rfl
theorem witness_memory : memWf (reads [up] [0]).mem ∧ ∃ t, step (reads [up] [0]) = .next t := ⟨by decide, _, rfl⟩

theorem witness_attach : State.powerOn.attached = false ∧ cfgLegal Config.attachCfg := by decide
theorem witness_attach_limits : cfgLegal { Config.attachCfg with n := 4, k := 17, coreClockHz := 1000000, tWait := 1, tPoll := 1 } := by
  decide
theorem witness_attach_again : (dev [up]).attached = true := rfl
theorem witness_attach_illegal : ¬ cfgLegal { Config.attachCfg with n := 0 } := by decide
theorem witness_detach : (dev [up]).attached = true := rfl
theorem witness_detached : State.powerOn.attached = false ∧ isOutbound .tick = false ∧ ∀ cfg, Instr.tick ≠ .attach cfg :=
  ⟨rfl, rfl, fun _ h => Instr.noConfusion h⟩

theorem witness_request_idle : serves (dev [up]) 0 up ∧ up.op = .none ∧ up.flushPending = false := by decide
theorem witness_request_flushing : let ch := { up with flushPending := true }
    serves (dev [ch]) 0 ch ∧ ch.op = .none ∧ ch.flushPending = true := by decide
theorem witness_request_busy : serves (dev [flushing]) 0 flushing ∧ flushing.op ≠ .none := by decide
theorem witness_submit_invalid : serves (dev [up]) 0 up ∧ ¬ submittable (dev [up]).cfg 0 { frame with len := 9 } := by decide
theorem witness_submit_full : serves (dev [up]) 0 up ∧ submittable (dev [up]).cfg 0 frame ∧ (dev [up]).cfg.k + 1 ≤ (3 : Byte).toNat := by
  decide
theorem witness_submit_closed : serves (dev [stopped]) 0 stopped ∧ submittable (dev [stopped]).cfg 0 frame ∧ stopped.txEnabled = false := by
  decide
theorem witness_submit_occupied : let ch := { up with slots := [⟨true, 1, frame⟩, emptySlot zeroFrame] }
    serves (dev [ch]) 0 ch ∧ submittable (dev [ch]).cfg 0 frame ∧ slotPresent ch ch.echoIdx = true := by decide
theorem witness_submit : serves (dev [up]) 0 up ∧ submittable (dev [up]).cfg 0 frame ∧ up.txEnabled = true ∧
    slotPresent up up.echoIdx = false ∧ (2 : Byte).toNat < (dev [up]).cfg.k + 1 := by decide
theorem witness_no_channel : (dev [up]).attached = true ∧ (dev [up]).channels.length ≤ 1 := by decide

theorem witness_tick : (dev [up, stopped]).attached = true := rfl
theorem witness_wait_stays : up.waitCnt = 0 := rfl
theorem witness_wait_counts : 2 ≤ { flushing with waitCnt := 2 }.waitCnt.toNat := by decide
theorem witness_wait_buson : { flushing with waitCnt := 1 }.waitCnt = 1 ∧ flushing.op = .buson := by decide
theorem witness_wait_stop : { flushing with waitCnt := 1, op := .stop }.waitCnt = 1 ∧ { flushing with op := .stop }.op = .stop := by
  decide
theorem witness_poll_stays : (Work.start up).ch.pollCnt = 0 := rfl
theorem witness_poll_counts : 2 ≤ (Work.start { up with pollCnt := 2 }).ch.pollCnt.toNat := by decide
theorem witness_poll_postponed : let w := Work.start { flushing with pollCnt := 1 }
    w.ch.pollCnt = 1 ∧ w.ch.op ≠ .none := by decide
theorem witness_poll_stopped : let w := Work.start { stopped with pollCnt := 1 }
    w.ch.pollCnt = 1 ∧ w.ch.op = .none ∧ w.ch.busState = .stopped := by decide
theorem witness_poll_expires : let w := Work.start { up with pollCnt := 1 }
    w.ch.pollCnt = 1 ∧ w.ch.op = .none ∧ w.ch.busState ≠ .stopped := by decide

theorem witness_notified : (dev [up]).attached = true ∧ (dev [up]).notifyBusy = false ∧ 0 < (dev [up]).channels.length := by decide
theorem witness_notified_busy : (busy [up]).attached = true ∧ (busy [up]).notifyBusy = true ∧ (busy [up]).rxPending.get .b1 = false ∧
    (busy [up]).rxPending.get .b0 = true ∧ 0 < (busy [up]).channels.length := by decide

theorem witness_marker : (busy [up]).attached = true ∧ (busy [up]).notifyBusy = true := ⟨rfl, rfl⟩
theorem witness_end_marker : let s := { reads [up] [0] with cursor := ⟨1023, 0⟩ }
    handlerTurn s (turned s) ∧ s.attached = true ∧ s.notifyBusy = true ∧ s.cursor.get s.curBuf < 1024 ∧
    memRead s.mem s.curBuf (s.cursor.get s.curBuf) = 0 := ⟨handlerTurn_turned rfl rfl, by decide⟩
theorem witness_overrun : decodeRing [5, 0x123, 0x800, 0, 0] = .error .overrun := rfl
theorem witness_malformed : let s := { reads [up] [0] with mem := [(4092, 5)], cursor := ⟨1023, 0⟩ }
    handlerTurn s (turned s) ∧ s.attached = true ∧ s.notifyBusy = true ∧ s.cursor.get s.curBuf < 1024 ∧
    decodeRing (bufWordsFrom s.mem s.curBuf (s.cursor.get s.curBuf)) = .error .overrun :=
  ⟨handlerTurn_turned rfl rfl, by decide⟩
theorem witness_malformed_free : let s := { reads [up] [0] with mem := [(4076, 6)], cursor := ⟨1019, 0⟩, arrivals := [] }
    handlerTurn s (turnedFree s) ∧ s.attached = true ∧ s.notifyBusy = true ∧ s.cursor.get s.curBuf < 1024 ∧
    decodeRing (bufWordsFrom s.mem s.curBuf (s.cursor.get s.curBuf)) = .error .overrun :=
  ⟨handlerTurn_free rfl rfl, by decide⟩
theorem witness_bound : let s := { reads [up] [0] with cursor := ⟨1024, 0⟩ }
    handlerTurn s (turned s) ∧ s.attached = true ∧ s.notifyBusy = true ∧ s.cursor.get s.curBuf = 1024 :=
  ⟨handlerTurn_turned rfl rfl, by decide⟩
theorem witness_bound_free : let s := { reads [up] [0] with cursor := ⟨1024, 0⟩, arrivals := [] }
    handlerTurn s (turnedFree s) ∧ s.attached = true ∧ s.notifyBusy = true ∧ s.cursor.get s.curBuf = 1024 :=
  ⟨handlerTurn_free rfl rfl, by decide⟩
theorem witness_data : let p : DataPkt := ⟨1, false, false, 1, false, false, false, [2]⟩
    receives (busy [up]) (sized 6) p.words up ∧ (busy [up]).draw.allocOk = true := by decide
theorem witness_data_dropped : let p : DataPkt := ⟨1, false, false, 1, false, false, false, [2]⟩
    let s := { busy [up] with draw := ⟨0, false⟩ }
    receives s (sized 6) p.words up ∧ s.draw.allocOk = false := by decide
theorem witness_no_handler : receives (busy [up]) (sized 7) (sized 7).size up := by decide
theorem witness_invalid_channel : let i := Instr.ack ⟨5, 1, 0⟩ ⟨0, false, false, false, false⟩
    ringHdr i = some ⟨5, 1, 0⟩ ∧ (busy [up]).attached = true ∧ (busy [up]).notifyBusy = true ∧ (busy [up]).channels.length ≤ (1 : BitVec 3).toNat ∧
    5 = ringLen i := by decide
theorem witness_invalid_channel_framing : let i := Instr.ack ⟨6, 7, 0⟩ ⟨0, false, false, false, false⟩
    ringHdr i = some ⟨6, 7, 0⟩ ∧ (busy [up]).channels.length ≤ (7 : BitVec 3).toNat ∧ 6 ≠ ringLen i := by decide
theorem witness_framing : let i := Instr.eflushAck (sized 6) 1
    ringHdr i = some (sized 6) ∧ (busy [up]).attached = true ∧ (busy [up]).notifyBusy = true ∧ (sized 6).size ≠ ringLen i := by decide

theorem witness_control_ack : receives (busy [up]) hdr 5 up ∧ (⟨0, false, true, false, false⟩ : AckPkt).ct = true := by decide
/-- An acknowledgement of slot `i`. -/
def ackOf (i : Byte) (flu nack : Bool) : AckPkt := ⟨i, flu, false, false, nack⟩
/-- A channel whose two slots are occupied. -/
def full : Chan := { up with slots := [⟨true, 1, frame⟩, ⟨true, 1, frame⟩], txFull := true }
theorem witness_ack_unknown : receives (busy [full]) hdr 5 full ∧ (ackOf 2 false false).ct = false ∧
    (busy [full]).cfg.k ≤ (ackOf 2 false false).seq.toNat := by decide
theorem witness_ack_empty : receives (busy [up]) hdr 5 up ∧ (ackOf 1 false false).ct = false ∧ slotPresent up 1 = false := by decide
theorem witness_ack_flushed : receives (busy [full]) hdr 5 full ∧ (ackOf 1 true false).ct = false ∧
    (ackOf 1 true false).seq.toNat < (busy [full]).cfg.k ∧ slotPresent full 1 = true ∧ (ackOf 1 true false).flu = true := by decide
theorem witness_ack_released : receives (busy [full]) hdr 5 full ∧ (ackOf 0 false true).ct = false ∧
    (ackOf 0 false true).seq.toNat < (busy [full]).cfg.k ∧ slotPresent full 0 = true ∧ (ackOf 0 false true).flu = false := by decide

theorem witness_monotone : (95 : Byte).toNat ≤ (96 : Byte).toNat ∧ (127 : Byte).toNat ≤ (128 : Byte).toNat := by decide
/-- A status packet with these counters and flags. -/
def statusOf (seq tx : Byte) (boff idet irm rmcd aut : Bool) : StatusPkt := ⟨seq, tx, 0, boff, idet, irm, rmcd, aut, false, false⟩
theorem witness_stopped : receives (busy [stopped]) hdr 5 stopped ∧ stopped.busState = .stopped ∧
    (statusOf 0 9 false false false false false).aut = false ∧ (statusOf 0 9 false false false false false).seq = stopped.cmdSeq ∧
    ¬ (stopped.op = .buson ∧ stopped.stage = .waitStart) ∧ ¬ (stopped.flushPending = true) := by decide
theorem witness_error : receives (busy [up]) hdr 5 up ∧ up.busState ≠ .stopped := by decide
/-- A bus-on that awaits its start status. -/
def starting : Chan := { flushing with flushPending := false, rmShadow := false, stage := .waitStart }
theorem witness_start : let p := statusOf 1 0 false false false false false
    receives (busy [starting]) hdr 5 starting ∧ starting.op = .buson ∧ starting.stage = .waitStart ∧ p.irm = false ∧
    p.rmcd = false ∧ p.boff = false ∧ p.seq = starting.cmdSeq := by decide
theorem witness_retrigger : let p := statusOf 1 0 false true true false true
    receives (busy [flushing]) hdr 5 flushing ∧ flushing.flushPending = true ∧ p.idet = true ∧ p.irm = true ∧ p.aut = true ∧
    p.seq = flushing.flushSeq := by decide
theorem witness_end_of_flush : let p := statusOf 9 0 false false true true true
    receives (busy [flushing]) hdr 5 flushing ∧ flushing.flushPending = true ∧ p.irm = true ∧ p.rmcd = true ∧
    ¬ (p.idet = true ∧ p.aut = true ∧ p.seq = flushing.flushSeq) ∧ (busy [flushing]).draw.hwCount = 0 := by decide
theorem witness_end_of_flush_deferred : let p := statusOf 9 0 false false true true true
    let s := { busy [flushing] with draw := ⟨1, true⟩ }
    receives s hdr 5 flushing ∧ flushing.flushPending = true ∧ p.irm = true ∧ p.rmcd = true ∧
    ¬ (p.idet = true ∧ p.aut = true ∧ p.seq = flushing.flushSeq) ∧ s.draw.hwCount ≠ 0 := by decide
theorem witness_solicited : let p := statusOf 0 100 false false false false false
    receives (busy [up]) hdr 5 up ∧ p.aut = false ∧ p.seq = up.cmdSeq ∧ ¬ (up.op = .buson) ∧ ¬ (up.flushPending = true) ∧
    up.busState ≠ .stopped := by decide
theorem witness_ignored_stale : let p := statusOf 7 0 false false false false false
    receives (busy [up]) hdr 5 up ∧ ¬ (up.op = .buson) ∧ ¬ (up.flushPending = true) ∧ p.aut = false ∧ p.seq ≠ up.cmdSeq := by decide
theorem witness_ignored_automatic : let p := statusOf 0 0 false false false false true
    receives (busy [up]) hdr 5 up ∧ ¬ (up.op = .buson) ∧ ¬ (up.flushPending = true) ∧ p.aut = true := by decide
theorem witness_flush_stale : receives (busy [up]) hdr 5 up ∧ up.flushPending = false := by decide
theorem witness_flush_buson : receives (busy [flushing]) hdr 5 flushing ∧ flushing.flushPending = true ∧ 1 = flushing.flushSeq ∧
    flushing.op = .buson ∧ flushing.stage = .waitFlush := by decide
theorem witness_flush_stop : let ch := { flushing with op := .stop }
    receives (busy [ch]) hdr 5 ch ∧ ch.flushPending = true ∧ 1 = ch.flushSeq ∧ ch.op = .stop ∧ ch.stage = .waitFlush := by decide
theorem witness_flush_forced : let ch := { up with flushPending := true }
    receives (busy [ch]) hdr 5 ch ∧ ch.flushPending = true ∧ 1 = ch.flushSeq ∧ ch.op = .none := by decide
theorem witness_outbound : (dev [up]).regs[3]? = some resetRegs := rfl

theorem witness_invariants : channelsInv (dev [up, flushing]) ∧ cursorInv (dev [up, flushing]) ∧
    ∃ t, step (asked [up, flushing] (portMsg 0x20)) = .next t := ⟨by decide, by decide, _, rfl⟩
theorem witness_run : runInv (asked [up] (portMsg 0x20)) ∧
    ∀ a ∈ (asked [up] (portMsg 0x20)).arrivals.head?, inputLegal (asked [up] (portMsg 0x20)) a = true := ⟨by decide, by decide⟩
theorem witness_independent : actsOn (.buson 0) = some 0 ∧ 1 ≠ 0 ∧ ∃ t, exec (.buson 0) (dev [up, stopped]) = .next t :=
  ⟨rfl, by decide, _, rfl⟩
theorem witness_rearm : (reads [up] [0]).attached = true ∧ ∃ t, step (reads [up] [0]) = .next t := ⟨rfl, _, rfl⟩
theorem witness_command : (dev [up]).attached = true ∧ (dev [up]).channels[0]? = some up ∧
    ∃ t ch, exec (.buson 0) (dev [up]) = .next t ∧ t.channels[0]? = some ch := ⟨rfl, rfl, _, _, rfl, rfl⟩
theorem witness_fsm_request : serves (dev [up]) 0 up ∧ up.op = .none ∧
    ∃ t ch, exec (.stop 0) (dev [up]) = .next t ∧ t.channels[0]? = some ch := ⟨by decide, rfl, _, _, rfl, rfl⟩
theorem witness_fsm_flush : serves (busy [flushing]) 0 flushing ∧ flushing.flushPending = true ∧ 1 = flushing.flushSeq ∧
    flushing.stage = .waitFlush ∧ ∃ t ch, exec (.eflushAck hdr 1) (busy [flushing]) = .next t ∧ t.channels[0]? = some ch :=
  ⟨by decide, rfl, rfl, rfl, _, _, rfl, rfl⟩
theorem witness_fsm_start : serves (busy [starting]) 0 starting ∧ fsm starting = .idleReset ∧
    ∃ t ch, exec (.status hdr (statusOf 1 0 false false false false false)) (busy [starting]) = .next t ∧ t.channels[0]? = some ch :=
  ⟨by decide, by decide, _, _, rfl, rfl⟩
theorem witness_fsm_timeout : let ch := { flushing with waitCnt := 1 }
    serves (dev [ch]) 0 ch ∧ ch.waitCnt = 1 ∧ ch.op = .buson ∧
    ∃ t ch', exec .tick (dev [ch]) = .next t ∧ t.channels[0]? = some ch' := ⟨by decide, rfl, rfl, _, _, rfl, rfl⟩
theorem witness_fsm_timeout_stop : let ch := { flushing with waitCnt := 1, op := .stop }
    serves (dev [ch]) 0 ch ∧ ch.waitCnt = 1 ∧ ch.op = .stop ∧
    ∃ t ch', exec .tick (dev [ch]) = .next t ∧ t.channels[0]? = some ch' := ⟨by decide, rfl, rfl, _, _, rfl, rfl⟩
theorem witness_fsm_error : serves (busy [up]) 0 up ∧ fsm up = .active .errorActive ∧
    ∃ t ch', exec (.error hdr ⟨0, 0, true, false, false, false, false⟩) (busy [up]) = .next t ∧ t.channels[0]? = some ch' :=
  ⟨by decide, by decide, _, _, rfl, rfl⟩
theorem witness_fsm_response : let p := statusOf 0 100 false false false false false
    let ch := { up with busState := .busOff, txEnabled := false }
    serves (busy [ch]) 0 ch ∧ fsm ch = .busOff ∧ p.aut = false ∧ p.seq = ch.cmdSeq ∧ ¬ (ch.flushPending = true) ∧
    ∃ t ch', exec (.status hdr p) (busy [ch]) = .next t ∧ t.channels[0]? = some ch' :=
  ⟨by decide, by decide, rfl, rfl, by decide, _, _, rfl, rfl⟩

theorem witness_length : let i := Instr.ackData (sized 6) ⟨1, 2, [3]⟩
    ringHdr i = some (sized 6) ∧ encode i = .ring [6, 1, 0x60000002, 0, 0, 3] ∧ i.wellFormed = true := by decide
theorem witness_misdeclared : let i := Instr.data (sized 6) ⟨1, false, false, 1, false, false, false, [2]⟩
    i.wellFormed = true ∧ encode i = .ring [6, 1, 0x100, 0, 0, 2] ∧ 5 ≤ 6 + [9].length ∧
    declaredAs 5 [6, 1, 0x100, 0, 0, 2] = [5, 1, 0x100, 0, 0, 2] := by decide
theorem witness_reproduces : let i := Instr.data (sized 6) ⟨1, false, false, 1, false, false, false, [2]⟩
    decodeRing ([6, 1, 0x100, 0, 0, 0x902] ++ [7]) = .ok i ∧ ringHdr i = some (sized 6) ∧ [6, 1, 0x100, 0, 0, 0x902].length = 6 ∧
    paddingBytes [6, 1, 0x100, 0, 0, 0x902] i = [9, 0, 0] := by decide
theorem witness_pending : let s := { busy [up] with rxPending := ⟨true, true⟩, held := [.rxReady .b1] }
    pendingInv s ∧ ∃ t, step s = .next t :=
  ⟨by intro b; cases b <;> decide, _, rfl⟩

/-! ### A pending buffer is consumed once

95_test_vectors.md has no test of a signal that comes twice; the expected values are R76's and R280's. -/

/-- A signal of a pending buffer, handled while idle, leaves nothing held for it. -/
theorem test_rxReady_twice : let s := { dev [up] with rxPending := ⟨false, true⟩, held := [.rxReady .b1, .txStatus 0] }
    (match exec (.rxReady .b1) s with | .next t => (t.held, t.curBuf, t.notifyBusy) | _ => ([], .b0, false)) =
      ([.txStatus 0], .b1, true) := by decide

/-- R284: the environment picks any pending source. -/
theorem test_pick : let s := { dev [up] with rxPending := ⟨true, true⟩, held := [.rxReady .b0, .rxReady .b1], arrivals := [.turn ⟨0, true⟩ 1] }
    (match step s with | .next t => (t.held, t.curBuf) | _ => ([], .b0)) = ([.rxReady .b0], .b1) := by decide

/-- D19 (92_eei_decisions.md): a bus-on that times out in `WAIT_START` keeps a forced flush and clears `EOF_DEFERRED`. -/
theorem test_timeout_deferred :
    chans (asked [{ up with op := .buson, waitCnt := 1, flushPending := true, eofDeferred := true }] (portMsg 0x20)) =
      some [{ up with flushPending := true }] := by decide

end Sys2Proof.Tests
end

section
/-! What the operations leave of the DMA buffers (00_scope.md R13): one rule per shared operation, then `exec`. -/

namespace Sys2Proof.Machine

/-! ### Memory under the shared operations -/

@[simp] theorem State.onChan_mem (s : State) (c : Nat) (f : Ctx → Work → Work) : (s.onChan c f).mem = s.mem := by
  obtain ⟨-, h⟩ | ⟨ch, -, h⟩ := s.onChan_cases c f <;> simp [h]

@[simp] theorem State.onRequest_mem (s : State) (c : Nat) (f : Ctx → Work → Work) :
    (s.onRequest c f).mem = s.mem := by
  cases h : s.channels[c]? with
  | none => rw [State.onRequest_of_none f h]
  | some ch => simp [State.onRequest_of_get f h]

@[simp] theorem State.tickFrom_mem (s : State) (c n : Nat) : (s.tickFrom c n).mem = s.mem := by
  induction n generalizing s c with
  | zero => rfl
  | succ n ih => simp [State.tickFrom, ih]

@[simp] theorem State.dispatch_mem (s : State) (ch : BitVec 3) (f : Ctx → Work → Work) :
    (s.dispatch ch f).mem = s.mem := by
  obtain ⟨x, -, h⟩ | ⟨-, h⟩ := s.dispatch_cases ch f <;> simp [h]

@[simp] theorem State.framingCheck_mem (s : State) (size len : Nat) : (s.framingCheck size len).mem = s.mem := by
  by_cases h : len = size
  · simp [h, State.framingCheck_same]
  · simp [State.framingCheck_ne s h]

/-! ### Outcomes that keep the memory -/

/-- A next state, if the outcome `o` is one, has the memory of `s`. -/
def KeepsMem (s : State) (o : Host.Outcome State Fault Refusal) : Prop := ∀ t, o = .next t → t.mem = s.mem

theorem keepsMem_next {s t : State} (h : t.mem = s.mem) : KeepsMem s (.next t) := by
  rintro _ ⟨⟩
  exact h

theorem KeepsMem.whenAttached {s : State} {k : Host.Outcome State Fault Refusal} (h : KeepsMem s k) :
    KeepsMem s (s.whenAttached k) := fun t ht => h t (State.whenAttached_next.1 ht).2

theorem KeepsMem.whenChan {s : State} {c : Nat} {k : Host.Outcome State Fault Refusal} (h : KeepsMem s k) :
    KeepsMem s (s.whenChan c k) := fun t ht => h t (State.whenChan_next.1 ht).2

theorem keepsMem_whenConsuming {s k : State} (h : k.mem = s.mem) : KeepsMem s (s.whenConsuming k) := by
  intro t ht
  obtain ⟨-, -, rfl⟩ := State.whenConsuming_next.1 ht
  exact h

theorem keepsMem_writeReg (s : State) (c : Nat) (f : CtlRegs → CtlRegs) : KeepsMem s (s.writeReg c f) := by
  intro t ht
  obtain ⟨-, rfl⟩ := State.writeReg_next.1 ht
  exact s.updRegs_mem c f

theorem keepsMem_packet (s : State) (h : Hdr) (len : Nat) (f : Ctx → Work → Work) :
    KeepsMem s (s.packet h len f) :=
  keepsMem_whenConsuming (by simp)

theorem keepsMem_stopQuietly (s : State) : KeepsMem s s.stopQuietly := keepsMem_whenConsuming s.endConsume_mem

theorem keepsMem_malformed (s : State) (why : Malformed) : KeepsMem s (s.malformed why) :=
  keepsMem_whenConsuming (s.abortConsume_mem _)

theorem keepsMem_request (s : State) (c : Nat) (f : Ctx → Work → Work) :
    KeepsMem s (s.whenAttached (s.whenChan c (.next (s.onRequest c f)))) :=
  (keepsMem_next (s.onRequest_mem c f)).whenChan.whenAttached

theorem keepsMem_attach (cfg : Cfg) (s : State) : KeepsMem s (execAttach cfg s) := by
  unfold execAttach
  split
  · exact keepsMem_next (s.returns_mem _)
  · exact keepsMem_next (s.attachWith_mem cfg)

theorem keepsMem_detach (s : State) : KeepsMem s (execDetach s) := KeepsMem.whenAttached (keepsMem_next rfl)

theorem keepsMem_tick (s : State) : KeepsMem s (execTick s) :=
  KeepsMem.whenAttached (keepsMem_next (s.tickFrom_mem _ _))

/-! ### Notifications -/

theorem keepsMem_rxReady (b : Buf) (s : State) : KeepsMem s (execRxReady b s) := by
  refine KeepsMem.whenAttached (keepsMem_next ?_)
  split
  · split
    · rfl
    · exact State.hold_mem _ _
  · simp

/-- A notification is held pending while another is handled, and served otherwise (R280). -/
theorem holdOrServe_mem {s t : State} (i : Instr) (h : t.mem = s.mem) :
    (if s.notifyBusy then s.hold i else t).mem = s.mem := by
  split
  · exact s.hold_mem i
  · exact h

theorem keepsMem_txStatus (c : Nat) (s : State) : KeepsMem s (execTxStatus c s) :=
  KeepsMem.whenAttached (KeepsMem.whenChan (keepsMem_next (holdOrServe_mem _ s.ackNotification_mem)))

theorem keepsMem_dmaOverflow (b : Buf) (s : State) : KeepsMem s (execDmaOverflow b s) :=
  KeepsMem.whenAttached (keepsMem_next (holdOrServe_mem _ (State.ackNotification_mem _)))

theorem keepsMem_dmaUnderflow (b : Buf) (s : State) : KeepsMem s (execDmaUnderflow b s) :=
  KeepsMem.whenAttached (keepsMem_next (holdOrServe_mem _ (State.ackNotification_mem _)))

/-! ### Every operation -/

theorem exec_keepsMem (i : Instr) (s : State) : KeepsMem s (exec i s) := by
  cases hi : ringHdr i with
  | some h =>
    obtain ⟨f, hf⟩ := exec_ringHdr hi
    exact hf s ▸ keepsMem_packet s h (ringLen i) f
  | none =>
    cases i with
    | endMark => exact keepsMem_stopQuietly s
    | undersize1 | undersize2 | undersize3 | undersize4 => exact keepsMem_malformed s .undersize
    | requestStatus | abortFlushReset | eflush | modeClearRm | modeClearEpen | modeSetEpen | txFrame =>
      exact keepsMem_writeReg s _ _
    | attach cfg => exact keepsMem_attach cfg s
    | detach => exact keepsMem_detach s
    | buson | stop | submit => exact keepsMem_request s _ _
    | tick => exact keepsMem_tick s
    | rxReady b => exact keepsMem_rxReady b s
    | txStatus c => exact keepsMem_txStatus c s
    | dmaOverflow b => exact keepsMem_dmaOverflow b s
    | dmaUnderflow b => exact keepsMem_dmaUnderflow b s
    | _ => simp [ringHdr] at hi

/-- Settles O10: every arm of `exec` is a shared operation, and none of these writes memory. -/
theorem coreNeverWritesABuffer : Obligations.CoreNeverWritesABuffer := exec_keepsMem

end Sys2Proof.Machine
end

section
/-! What an operation that answers a next state has done: one inversion of `exec`, from which the invariants follow. -/

namespace Sys2Proof.Machine

/-! ### The handlers -/

/-- The handlers `DISPATCH` runs (R166, R169). -/
inductive PacketHandler : (Ctx → Work → Work) → Prop
  | data (ts : Stamp) (p : DataPkt) : PacketHandler (handleData ts p)
  | ack (ts : Stamp) (p : AckPkt) : PacketHandler (handleAck ts p)
  | error (ts : Stamp) (p : ErrorPkt) : PacketHandler (handleError ts p)
  | eflushAck (seq : Byte) : PacketHandler (handleEflushAck seq)
  | status (ts : Stamp) (p : StatusPkt) : PacketHandler (handleStatus ts p)
  | unexpected : PacketHandler handleUnexpected
  | unknown (typ : BitVec 4) : PacketHandler (handleUnknown typ)

/-- The handlers of the host requests on a channel (R184, R195, R220). -/
inductive RequestHandler : (Ctx → Work → Work) → Prop
  | buson : RequestHandler requestBuson
  | stop : RequestHandler requestStop
  | submit (f : TxFrame) (hwPre hwPost : Byte) : RequestHandler (requestSubmit f hwPre hwPost)

theorem exec_packet {i : Instr} {h : Hdr} (hi : ringHdr i = some h) :
    ∃ f, PacketHandler f ∧ ∀ s, exec i s = s.packet h (ringLen i) f := by
  cases i with
  | data _ p => cases hi; exact ⟨_, .data h.ts p, fun _ => rfl⟩
  | ack _ p => cases hi; exact ⟨_, .ack h.ts p, fun _ => rfl⟩
  | error _ p => cases hi; exact ⟨_, .error h.ts p, fun _ => rfl⟩
  | eflushAck _ seq => cases hi; exact ⟨_, .eflushAck seq, fun _ => rfl⟩
  | status _ p => cases hi; exact ⟨_, .status h.ts p, fun _ => rfl⟩
  | txrq | eframeAck | ackData | busLoad => cases hi; exact ⟨_, .unexpected, fun _ => rfl⟩
  | unknown7 | unknownA | unknownB | unknownC | unknownD | unknownE | unknownF =>
    cases hi; exact ⟨_, .unknown _, fun _ => rfl⟩
  | _ => cases hi

/-! ### The effects -/

/-- What operation `i`, started at `s`, can have done when it answers a next state. -/
inductive Effect (s : State) : Instr → State → Prop
  | packet {i : Instr} {h : Hdr} {f : Ctx → Work → Work} (hi : ringHdr i = some h) (hf : PacketHandler f)
      (hb : s.notifyBusy = true) : Effect s i ((s.dispatch h.ch f).framingCheck h.size (ringLen i))
  | endOfFill : Effect s .endMark s.endConsume
  | malformed {i : Instr} {x : Exc} : Effect s i (s.abortConsume x)
  | delivered {i : Instr} {c : Nat} {f : CtlRegs → CtlRegs} : Effect s i (s.updRegs c f)
  | attachRefused {cfg : Cfg} : Effect s (.attach cfg) (s.returns .refused)
  | attached {cfg : Cfg} (ha : s.attached = false) (hc : cfgLegal cfg) : Effect s (.attach cfg) (s.attachWith cfg)
  | detached : Effect s .detach { s with attached := false, channels := [], ret := none }
  | request {i : Instr} {c : Nat} {f : Ctx → Work → Work} (hf : RequestHandler f) : Effect s i (s.onRequest c f)
  | tick : Effect s .tick (s.tickFrom 0 s.channels.length)
  | rxServed {b : Buf} (hb : s.notifyBusy = false) : Effect s (.rxReady b) ((s.unhold b).startConsume b)
  | rxHeld {b : Buf} (hb : s.notifyBusy = true) :
      Effect s (.rxReady b) ({ s with rxPending := s.rxPending.set b true }.hold (.rxReady b))
  | rxAlreadyPending {b : Buf} : Effect s (.rxReady b) s
  | held {i : Instr} (hi : isNotification i = true) : Effect s i (s.hold i)
  | acknowledged {i : Instr} (g : GlobalCounters) (hb : s.notifyBusy = false) :
      Effect s i { s with global := g }.ackNotification

section
variable {s t : State} {i : Instr}

theorem effect_writeReg {c : Nat} {f : CtlRegs → CtlRegs} (h : s.writeReg c f = .next t) : Effect s i t := by
  obtain ⟨-, rfl⟩ := State.writeReg_next.1 h
  exact .delivered

theorem effect_malformed {why : Malformed} (h : s.malformed why = .next t) : Effect s i t := by
  obtain ⟨-, -, rfl⟩ := State.whenConsuming_next.1 h
  exact .malformed

theorem effect_request {c : Nat} {f : Ctx → Work → Work} (hf : RequestHandler f)
    (h : s.whenAttached (s.whenChan c (.next (s.onRequest c f))) = .next t) : Effect s i t := by
  obtain ⟨-, h⟩ := State.whenAttached_next.1 h
  obtain ⟨-, ⟨⟩⟩ := State.whenChan_next.1 h
  exact .request hf

theorem effect_attach {cfg : Cfg} (h : execAttach cfg s = .next t) : Effect s (.attach cfg) t := by
  unfold execAttach at h
  split at h <;> cases h
  · exact .attachRefused
  · next hn =>
    simp only [Bool.or_eq_true, Bool.not_eq_true', not_or, Bool.not_eq_true, Bool.not_eq_false] at hn
    exact .attached hn.1 ((cfgOk_iff cfg).1 hn.2)

theorem effect_rxReady {b : Buf} (h : execRxReady b s = .next t) : Effect s (.rxReady b) t := by
  obtain ⟨-, ⟨⟩⟩ := State.whenAttached_next.1 h
  split
  · next hb =>
    split
    · exact .rxAlreadyPending
    · exact .rxHeld hb
  · next hb => exact .rxServed (by simpa using hb)

/-- A notification but `RX_READY` is held pending, or counted and acknowledged (R173, R280, R283). -/
theorem effect_holdOrServe (hi : isNotification i = true) (g : GlobalCounters) :
    Effect s i (if s.notifyBusy then s.hold i else { s with global := g }.ackNotification) := by
  split
  · exact .held hi
  · next hb => exact .acknowledged g (by simpa using hb)

/-- Everything an operation can do. -/
theorem exec_effect (h : exec i s = .next t) : Effect s i t := by
  cases hi : ringHdr i with
  | some hd =>
    obtain ⟨f, hf, he⟩ := exec_packet hi
    obtain ⟨-, hb, rfl⟩ := State.packet_next.1 (he s ▸ h)
    exact .packet hi hf hb
  | none =>
    cases i with
    | endMark =>
      obtain ⟨-, -, rfl⟩ := State.whenConsuming_next.1 h
      exact .endOfFill
    | undersize1 | undersize2 | undersize3 | undersize4 => exact effect_malformed h
    | requestStatus | abortFlushReset | eflush | modeClearRm | modeClearEpen | modeSetEpen | txFrame =>
      exact effect_writeReg h
    | attach cfg => exact effect_attach h
    | detach =>
      obtain ⟨-, ⟨⟩⟩ := State.whenAttached_next.1 h
      exact .detached
    | buson c => exact effect_request .buson h
    | stop c => exact effect_request .stop h
    | submit c f a b => exact effect_request (.submit f a b) h
    | tick =>
      obtain ⟨-, ⟨⟩⟩ := State.whenAttached_next.1 h
      exact .tick
    | rxReady b => exact effect_rxReady h
    | txStatus c =>
      obtain ⟨-, h⟩ := State.whenAttached_next.1 h
      obtain ⟨-, ⟨⟩⟩ := State.whenChan_next.1 h
      exact effect_holdOrServe rfl s.global
    | dmaOverflow b | dmaUnderflow b =>
      obtain ⟨-, ⟨⟩⟩ := State.whenAttached_next.1 h
      exact effect_holdOrServe rfl _
    | _ => simp [ringHdr] at hi

end

end Sys2Proof.Machine
end

section
/-! What a step that answers a next state has done: the input it took, and one operation or one act of the environment. -/

namespace Sys2Proof.Machine

/-! ### Which operations each stream brings -/

theorem ringHdr_decodePacket (h : Hdr) (word0 word1 : Word) (rest : List Word) :
    ringHdr (decodePacket h word0 word1 rest) = some h := by
  unfold decodePacket
  split <;> rfl

/-- A decoded packet lies inside the words it was read from (R131). -/
theorem decodeRing_size_le {ws : List Word} {i : Instr} {h : Hdr} (hd : decodeRing ws = .ok i)
    (hi : ringHdr i = some h) : h.size ≤ ws.length := by
  unfold decodeRing at hd
  split at hd
  iterate 5 (cases hd; cases hi)
  split at hd
  · cases hd
  · next hw =>
    dsimp only at hd
    split at hd
    · cases hd
    · cases hd
      rw [ringHdr_decodePacket] at hi
      cases hi
      exact (hasWords_iff ws _).1 (by simpa using hw)

theorem decodeBuf_map_ok {b : Nat} {f : Buf → Instr} {i : Instr} (h : (decodeBuf b).map f = .ok i) :
    ∃ d, i = f d := by
  cases hb : decodeBuf b with
  | error e => rw [hb] at h; cases h
  | ok d => rw [hb] at h; cases h; exact ⟨d, rfl⟩

theorem ringHdr_of_decodePort {m : PortMsg} {i : Instr} (h : decodePort m = .ok i) : ringHdr i = none := by
  unfold decodePort at h
  split at h
  case h_7 | h_9 | h_10 =>
    obtain ⟨d, rfl⟩ := decodeBuf_map_ok h
    rfl
  all_goals cases h
  all_goals rfl

theorem ringHdr_of_decodeReg {w : RegWrite} {i : Instr} (h : decodeReg w = .ok i) : ringHdr i = none := by
  cases w with
  | cmd | ctrl | mode => simp only [decodeReg] at h; split_ifs at h <;> cases h <;> rfl
  | fifo => simp only [decodeReg] at h; split at h <;> cases h; rfl

/-! ### The fetch -/

/-- What `step` does with what `nextOp` answers. -/
def NextOp.perform : NextOp → Host.Outcome State Fault Refusal
  | .run i s => exec i s
  | .own o => o

theorem step_eq_perform (s : State) : step s = (nextOp s).perform := by
  unfold step NextOp.perform
  cases nextOp s <;> rfl

/-- The running consumption is the same, and nothing new is held pending. -/
structure SameConsumption (s t : State) : Prop where
  cursor : t.cursor = s.cursor
  notifyBusy : t.notifyBusy = s.notifyBusy
  curBuf : t.curBuf = s.curBuf
  held : t.held ⊆ s.held

theorem SameConsumption.refl (s : State) : SameConsumption s s := ⟨rfl, rfl, rfl, List.Subset.refl _⟩

theorem SameConsumption.trans {s t u : State} (h : SameConsumption s t) (h' : SameConsumption t u) :
    SameConsumption s u where
  cursor := h'.cursor.trans h.cursor
  notifyBusy := h'.notifyBusy.trans h.notifyBusy
  curBuf := h'.curBuf.trans h.curBuf
  held := List.Subset.trans h'.held h.held

/-- `s'` is `s` with an input taken: the core's own state is the same but for a notification no longer held. -/
structure InputTaken (s s' : State) : Prop extends SameConsumption s s' where
  attached : s'.attached = s.attached
  cfg : s'.cfg = s.cfg
  channels : s'.channels = s.channels

theorem InputTaken.refl (s : State) : InputTaken s s := ⟨.refl s, rfl, rfl, rfl⟩

theorem InputTaken.trans {s t u : State} (h : InputTaken s t) (h' : InputTaken t u) : InputTaken s u :=
  ⟨h.toSameConsumption.trans h'.toSameConsumption, h'.attached.trans h.attached, h'.cfg.trans h.cfg,
    h'.channels.trans h.channels⟩

/-- A ring packet that is run in a consumption ends, from the cursor on, inside the buffer. -/
def FitsBuffer (s : State) (i : Instr) : Prop :=
  s.notifyBusy = true → ∀ h, ringHdr i = some h → s.cursor.get s.curBuf + h.size ≤ Config.bufWords

theorem fitsBuffer_of_ringHdr {s : State} {i : Instr} (hi : ringHdr i = none) : FitsBuffer s i := by
  intro _ h hh
  rw [hi] at hh
  cases hh

/-- What a step can have done after it has taken its input. -/
inductive StepEffect (s : State) : State → Prop
  | operation {i : Instr} {t : State} (hi : FitsBuffer s i) (he : Effect s i t) : StepEffect s t
  | filled (m : List Host.Cell) : StepEffect s { s with mem := m }
  | bound : StepEffect s s.endConsume
  | overrun (x : Exc) : StepEffect s (s.abortConsume x)
  | idle : StepEffect s s

section
variable {s t : State}

theorem runFetched_effect {f : Fetched} (hf : ∀ i, decode f = .ok i → ringHdr i = none)
    (h : (runFetched f s).perform = .next t) : StepEffect s t := by
  unfold runFetched at h
  split at h
  · next i hi => exact .operation (fitsBuffer_of_ringHdr (hf i hi)) (exec_effect h)
  · cases h

theorem hardwareFill_effect {b : Buf} {off : Nat} {bytes : List Byte} (h : hardwareFill b off bytes s = .next t) :
    StepEffect s t := by
  unfold hardwareFill at h
  split_ifs at h
  cases h
  exact .filled _

theorem ringTurn_effect (h : (ringTurn s).perform = .next t) : StepEffect s t := by
  obtain ⟨-, hr⟩ | ⟨-, hr⟩ | ⟨i, hc, hd, hr⟩ := ringTurn_cases s <;> rw [hr] at h
  · obtain ⟨-, -, rfl⟩ := State.whenConsuming_next.1 h
    exact .bound
  · obtain ⟨-, -, rfl⟩ := State.whenConsuming_next.1 h
    exact .overrun _
  · refine .operation (fun _ hd' hi => ?_) (exec_effect h)
    have := decodeRing_size_le hd hi
    rw [bufWordsFrom_length] at this
    simp only [Config.bufWords] at this ⊢
    omega

/-- The handler's turn takes at most one pending source, and only outside a consumption. -/
theorem notifyTurn_effect {k : Nat} (h : (notifyTurn k s).perform = .next t) :
    ∃ s', InputTaken s s' ∧ StepEffect s' t := by
  obtain ⟨-, hn⟩ | ⟨hb, i, -, hn⟩ | ⟨-, -, hn⟩ := notifyTurn_cases k s <;> rw [hn] at h
  · exact ⟨s, .refl s, ringTurn_effect h⟩
  · refine ⟨{ s with held := s.held.eraseIdx (k % s.held.length) }, ⟨⟨rfl, rfl, rfl, List.eraseIdx_subset⟩, rfl, rfl, rfl⟩,
      .operation (fun hb' => ?_) (exec_effect h)⟩
    cases hb.symm.trans hb'
  · cases h
    exact ⟨s, .refl s, .idle⟩

/-- An input that is no pending source leaves what is held pending alone. -/
theorem inputTaken_stream (out : List RegWrite) (arr : List Arrival) (d : Draw) (n : Nat) :
    InputTaken s { s with outbox := out, arrivals := arr, draw := d, freeCount := n } :=
  ⟨⟨rfl, rfl, rfl, List.Subset.refl _⟩, rfl, rfl, rfl⟩

theorem InputTaken.turn_effect {s' : State} {k : Nat} (hs : InputTaken s s')
    (h : (notifyTurn k s').perform = .next t) : ∃ s'', InputTaken s s'' ∧ StepEffect s'' t := by
  obtain ⟨s'', hs', he⟩ := notifyTurn_effect h
  exact ⟨s'', hs.trans hs', he⟩

/-- Everything a step can do: it takes an input, and then one operation or one act of the environment happens. -/
theorem step_effect (h : step s = .next t) : ∃ s', InputTaken s s' ∧ StepEffect s' t := by
  rw [step_eq_perform] at h
  cases ho : s.outbox with
  | cons w rest =>
    rw [nextOp_outbox ho] at h
    exact ⟨_, inputTaken_stream rest s.arrivals s.draw s.freeCount,
      runFetched_effect (f := .reg w) (fun _ => ringHdr_of_decodeReg) h⟩
  | nil =>
    cases ha : s.arrivals with
    | nil =>
      simp only [nextOp, ho, ha] at h
      refine InputTaken.turn_effect ?_ h
      split
      · exact inputTaken_stream s.outbox s.arrivals (Config.freeDraw s.freeCount) (s.freeCount + 1)
      · exact .refl s
    | cons a rest =>
      cases a with
      | request m =>
        rw [nextOp_request ho ha] at h
        exact ⟨_, inputTaken_stream s.outbox rest s.draw s.freeCount,
          runFetched_effect (f := .port m) (fun _ => ringHdr_of_decodePort) h⟩
      | fill b off bytes =>
        rw [nextOp_fill ho ha] at h
        exact ⟨_, inputTaken_stream s.outbox rest s.draw s.freeCount, hardwareFill_effect h⟩
      | turn d k =>
        rw [nextOp_turn ho ha] at h
        exact (inputTaken_stream s.outbox rest d s.freeCount).turn_effect h

end

end Sys2Proof.Machine
end

section
/-! Legal channel contexts (10_state.md R26, R42; 42_channel_fsm.md R202): the contexts of an attach are legal, and every
effect keeps them so. -/

namespace Sys2Proof.Machine

theorem PacketHandler.good {f : Ctx → Work → Work} (hf : PacketHandler f) : Good f := by
  cases hf with
  | data ts p => exact good_handleData ts p
  | ack ts p => exact good_handleAck ts p
  | error ts p => exact good_handleError ts p
  | eflushAck seq => exact good_handleEflushAck seq
  | status ts p => exact good_handleStatus ts p
  | unexpected => exact good_handleUnexpected
  | unknown typ => exact good_handleUnknown typ

theorem RequestHandler.good {f : Ctx → Work → Work} (hf : RequestHandler f) : Good f := by
  cases hf with
  | buson => exact good_requestBuson
  | stop => exact good_requestStop
  | submit f a b => exact good_requestSubmit f a b

/-! ### The contexts of an attach -/

/-- A context after attach (R300) is legal under a configuration with that many slots. -/
theorem chanInv_resetChan {cfg : Cfg} {slots : List EchoSlot} (hl : slots.length = cfg.k) (hk : 1 ≤ cfg.k) :
    chanInv cfg (resetChan slots) := by
  refine ⟨?_, ?_, hl, hk⟩
  · simp [waitInv, resetChan]
  · simp [flowInv, resetChan]

theorem channelsInv_attachWith (s : State) {cfg : Cfg} (hc : cfgLegal cfg) : channelsInv (s.attachWith cfg) := by
  refine fun _ => ⟨hc, by simp [attachChannels], fun ch hch => ?_⟩
  obtain ⟨c, -, rfl⟩ := List.mem_map.1 hch
  obtain ⟨-, -, hk, -⟩ := hc
  exact chanInv_resetChan (by simp [attachSlots]) hk

/-! ### The shared operations -/

section
variable {s t : State}

/-- Legality reads three fields of the state. -/
theorem channelsInv_congr (h : channelsInv s) (ha : t.attached = s.attached) (hc : t.cfg = s.cfg)
    (hch : t.channels = s.channels) : channelsInv t := by
  simpa only [channelsInv, ha, hc, hch] using h

/-- A good handler's work on one channel keeps all of them legal. -/
theorem channelsInv_commit {c : Nat} {ch : Chan} {f : Ctx → Work → Work} (hf : Good f) (h : channelsInv s)
    (hg : s.channels[c]? = some ch) : channelsInv (s.commit c (f (s.ctx c) (Work.start ch))) := by
  intro ha
  obtain ⟨hc, hl, hi⟩ := h ha
  have hn : c < s.cfg.n := hl ▸ lt_of_get hg
  have hw := (hf (s.ctx c) (Work.start ch) hc hn (hi ch (List.mem_of_getElem? hg)) (by simp)).1
  refine ⟨hc, by simpa using hl, fun d hd => ?_⟩
  obtain hd | rfl := List.mem_or_eq_of_mem_set hd
  · exact hi d hd
  · exact hw

theorem channelsInv_onChan {c : Nat} {f : Ctx → Work → Work} (hf : Good f) (h : channelsInv s) :
    channelsInv (s.onChan c f) := by
  obtain ⟨-, he⟩ | ⟨ch, hg, he⟩ := s.onChan_cases c f <;> rw [he]
  · exact h
  · exact channelsInv_commit hf h hg

theorem channelsInv_onRequest {c : Nat} {f : Ctx → Work → Work} (hf : Good f) (h : channelsInv s) :
    channelsInv (s.onRequest c f) := by
  cases hg : s.channels[c]? with
  | none => rwa [State.onRequest_of_none f hg]
  | some ch =>
    rw [State.onRequest_of_get f hg]
    exact channelsInv_congr (channelsInv_commit hf h hg) rfl rfl rfl

theorem channelsInv_dispatch {c : BitVec 3} {f : Ctx → Work → Work} (hf : Good f) (h : channelsInv s) :
    channelsInv (s.dispatch c f) := by
  obtain ⟨ch, hg, he⟩ | ⟨-, he⟩ := s.dispatch_cases c f <;> rw [he]
  · exact channelsInv_commit hf h hg
  · exact channelsInv_congr h rfl rfl rfl

theorem channelsInv_framingCheck {size len : Nat} (h : channelsInv s) : channelsInv (s.framingCheck size len) := by
  by_cases hl : len = size
  · rw [hl, State.framingCheck_same]
    exact channelsInv_congr h rfl rfl rfl
  · rw [State.framingCheck_ne s hl]
    exact channelsInv_congr h rfl rfl rfl

theorem channelsInv_tickFrom (c n : Nat) (h : channelsInv s) : channelsInv (s.tickFrom c n) := by
  induction n generalizing s c with
  | zero => exact h
  | succ n ih => exact ih (c + 1) (channelsInv_onChan good_tickChan h)

/-! ### Every operation and every step -/

theorem Effect.channelsInv {i : Instr} (he : Effect s i t) (h : channelsInv s) : channelsInv t := by
  cases he with
  | packet _ hf _ => exact channelsInv_framingCheck (channelsInv_dispatch hf.good h)
  | request hf => exact channelsInv_onRequest hf.good h
  | tick => exact channelsInv_tickFrom _ _ h
  | attached _ hc => exact channelsInv_attachWith s hc
  | detached => intro ha; cases ha
  | endOfFill | malformed | delivered | attachRefused | rxServed | rxHeld | rxAlreadyPending | held | acknowledged =>
    exact channelsInv_congr h rfl rfl rfl

theorem StepEffect.channelsInv (he : StepEffect s t) (h : channelsInv s) : channelsInv t := by
  cases he with
  | operation _ he => exact he.channelsInv h
  | filled | bound | overrun | idle => exact channelsInv_congr h rfl rfl rfl

end

/-- Settles O50: what is left after the input is taken is one effect, and every effect keeps legal contexts legal. -/
theorem channelsStayLegal : Obligations.ChannelsStayLegal := by
  intro s t h hs
  obtain ⟨s', hin, he⟩ := step_effect hs
  exact he.channelsInv (channelsInv_congr h hin.attached hin.cfg hin.channels)

end Sys2Proof.Machine
end

section
/-! The cursors (10_state.md R40, R41): a decoded packet ends inside the buffer, and every exit of a consumption returns
its cursor to 0. -/

namespace Sys2Proof.Machine

/-! ### The shared operations leave the consumption alone -/

section
variable {s t : State}

theorem sameConsumption_onChan (s : State) (c : Nat) (f : Ctx → Work → Work) : SameConsumption s (s.onChan c f) := by
  obtain ⟨-, he⟩ | ⟨ch, -, he⟩ := s.onChan_cases c f <;> rw [he]
  · exact .refl s
  · exact ⟨rfl, rfl, rfl, List.Subset.refl _⟩

theorem sameConsumption_onRequest (s : State) (c : Nat) (f : Ctx → Work → Work) :
    SameConsumption s (s.onRequest c f) := by
  cases hg : s.channels[c]? with
  | none => rw [State.onRequest_of_none f hg]; exact .refl s
  | some ch => rw [State.onRequest_of_get f hg]; exact ⟨rfl, rfl, rfl, List.Subset.refl _⟩

theorem sameConsumption_dispatch (s : State) (c : BitVec 3) (f : Ctx → Work → Work) :
    SameConsumption s (s.dispatch c f) := by
  obtain ⟨ch, -, he⟩ | ⟨-, he⟩ := s.dispatch_cases c f <;> rw [he] <;> exact ⟨rfl, rfl, rfl, List.Subset.refl _⟩

theorem sameConsumption_tickFrom (s : State) (c n : Nat) : SameConsumption s (s.tickFrom c n) := by
  induction n generalizing s c with
  | zero => exact .refl s
  | succ n ih => exact (sameConsumption_onChan s c tickChan).trans (ih _ (c + 1))

theorem cursorInv_congr (h : cursorInv s) (ht : SameConsumption s t) : cursorInv t := by
  obtain ⟨hle, hother, hidle, hheld⟩ := h
  simp only [cursorInv, ht.cursor, ht.curBuf, ht.notifyBusy]
  exact ⟨hle, hother, hidle, fun i hi => hheld i (ht.held hi)⟩

/-! ### The consumption itself -/

/-- Outside a consumption every cursor is 0 (R40). -/
theorem cursorInv.cursor_eq_zero (h : cursorInv s) (hb : s.notifyBusy = false) (b : Buf) : s.cursor.get b = 0 := by
  obtain ⟨-, hother, hidle, -⟩ := h
  have hcur := hidle hb
  revert hother hcur
  cases s.curBuf <;> cases b <;> simp +contextual [otherBuf]

theorem cursorInv_startConsume (b : Buf) (h : cursorInv s) (hb : s.notifyBusy = false) :
    cursorInv ((s.unhold b).startConsume b) := by
  have hzero := h.cursor_eq_zero hb (otherBuf b)
  obtain ⟨-, -, -, hheld⟩ := h
  exact ⟨by simp, by simpa using hzero, by simp, fun i hi => hheld i (List.mem_of_mem_filter hi)⟩

theorem cursorInv_endConsume (h : cursorInv s) : cursorInv s.endConsume := by
  obtain ⟨-, hother, -, hheld⟩ := h
  exact ⟨by simp, by simpa using hother, by simp, hheld⟩

theorem cursorInv_abortConsume (x : Exc) (h : cursorInv s) : cursorInv (s.abortConsume x) :=
  cursorInv_endConsume (cursorInv_congr h ⟨rfl, rfl, rfl, List.Subset.refl _⟩)

/-- The cursor moves past a packet that ends inside the buffer. -/
theorem cursorInv_advance {n : Nat} (h : cursorInv s) (hb : s.notifyBusy = true)
    (hn : s.cursor.get s.curBuf + n ≤ Config.bufWords) : cursorInv (s.advance n) := by
  obtain ⟨-, hother, -, hheld⟩ := h
  exact ⟨by simpa [Config.bufWords] using hn, by simpa using hother, by simp [hb], hheld⟩

theorem cursorInv_framingCheck {size len : Nat} (h : cursorInv s) (hb : s.notifyBusy = true)
    (hn : s.cursor.get s.curBuf + size ≤ Config.bufWords) : cursorInv (s.framingCheck size len) := by
  by_cases hl : len = size
  · rw [hl, State.framingCheck_same]
    exact cursorInv_advance h hb hn
  · rw [State.framingCheck_ne s hl]
    exact cursorInv_abortConsume _ h

theorem cursorInv_hold {i : Instr} (h : cursorInv s) (hi : isNotification i = true) : cursorInv (s.hold i) := by
  obtain ⟨hle, hother, hidle, hheld⟩ := h
  refine ⟨hle, hother, hidle, fun j hj => ?_⟩
  obtain hj | hj := List.mem_append.1 hj
  · exact hheld j hj
  · rwa [List.mem_singleton.1 hj]

theorem cursorInv_attachWith (s : State) (cfg : Cfg) : cursorInv (s.attachWith cfg) := by
  simp [cursorInv, Pair.get, otherBuf]

/-! ### Every operation and every step -/

theorem Effect.cursorInv {i : Instr} (he : Effect s i t) (hfit : FitsBuffer s i) (h : cursorInv s) : cursorInv t := by
  cases he with
  | @packet _ hd f hi _ hb =>
    have hsame := sameConsumption_dispatch s hd.ch f
    refine cursorInv_framingCheck (cursorInv_congr h hsame) (hsame.notifyBusy.trans hb) ?_
    rw [hsame.cursor, hsame.curBuf]
    exact hfit hb hd hi
  | request => exact cursorInv_congr h (sameConsumption_onRequest ..)
  | tick => exact cursorInv_congr h (sameConsumption_tickFrom ..)
  | attached => exact cursorInv_attachWith s _
  | endOfFill => exact cursorInv_endConsume h
  | malformed => exact cursorInv_abortConsume _ h
  | rxServed hb => exact cursorInv_startConsume _ h hb
  | rxHeld => exact cursorInv_hold (cursorInv_congr h ⟨rfl, rfl, rfl, List.Subset.refl _⟩) rfl
  | held hi => exact cursorInv_hold h hi
  | acknowledged _ hb => exact cursorInv_congr h ⟨rfl, hb.symm, rfl, List.Subset.refl _⟩
  | delivered | attachRefused | detached | rxAlreadyPending =>
    exact cursorInv_congr h ⟨rfl, rfl, rfl, List.Subset.refl _⟩

theorem StepEffect.cursorInv (he : StepEffect s t) (h : cursorInv s) : cursorInv t := by
  cases he with
  | operation hfit he => exact he.cursorInv hfit h
  | bound => exact cursorInv_endConsume h
  | overrun x => exact cursorInv_abortConsume x h
  | filled | idle => exact cursorInv_congr h ⟨rfl, rfl, rfl, List.Subset.refl _⟩

end

/-- Settles O51: only the packet at the cursor moves it, by a declared size that the decoder has checked against the end
of the buffer. -/
theorem cursorsStayLegal : Obligations.CursorsStayLegal := by
  intro s t h hs
  obtain ⟨s', hin, he⟩ := step_effect hs
  exact he.cursorInv (cursorInv_congr h hin.toSameConsumption)

end Sys2Proof.Machine
end

section
/-! One command per operation and channel (10_state.md R23, 42_channel_fsm.md R181): what each shared operation of the
handlers sends, then the handlers, then the operations. -/

namespace Sys2Proof.Machine

/-- The commands of channel `d` a handler has sent. -/
def Work.commands (w : Work) (d : Nat) : List Event := w.out.filter (isCommand d)

/-! ### Operations that send no command -/

section
variable (x : Ctx) (w : Work) (d : Nat)

@[simp] theorem Work.emit_commands (e : Event) :
    (w.emit e).commands d = w.commands d ++ [e].filter (isCommand d) := List.filter_append ..
@[simp] theorem Work.upd_commands (f : Chan → Chan) : (w.upd f).commands d = w.commands d := rfl
@[simp] theorem Work.count_commands (f : Counters → Counters) : (w.count f).commands d = w.commands d := rfl
@[simp] theorem Work.return_commands (r : Result) : (w.return r).commands d = w.commands d := rfl
@[simp] theorem Work.logExc_commands (e : Exc) : (w.logExc e).commands d = w.commands d := rfl
@[simp] theorem Work.start_commands (ch : Chan) : (Work.start ch).commands d = [] := rfl
@[simp] theorem clearFlush_commands : (clearFlush w).commands d = w.commands d := rfl

@[simp] theorem setTx_commands (e f : Bool) : (setTx x e f w).commands d = w.commands d := by
  simp only [setTx]
  split
  · simp [isCommand]
  · split <;> simp [isCommand]

@[simp] theorem sendEof_commands : (sendEof x w).commands d = w.commands d := by simp [sendEof, isCommand]

@[simp] theorem announce_commands (o n : BusState) : (announce x o n w).commands d = w.commands d := by
  simp only [announce]
  split <;> simp [isCommand]

@[simp] theorem reenableErrGen_commands : (reenableErrGen x w).commands d = w.commands d := by
  simp only [reenableErrGen]
  split <;> simp [isCommand]

@[simp] theorem sendErr_commands (e : ErrEvent) : (sendErr x e w).commands d = w.commands d := by
  simp only [sendErr]
  split <;> simp [isCommand]

@[simp] theorem errCapCheck_commands : (errCapCheck x w).commands d = w.commands d := by
  simp only [errCapCheck]
  split <;> simp [isCommand]

@[simp] theorem errCapCheck_cmdSeq : (errCapCheck x w).ch.cmdSeq = w.ch.cmdSeq := by
  simp only [errCapCheck]
  split <;> rfl

end

/-! ### A handler's work, seen by its commands -/

/-- No command has been sent, and `CMD_SEQ` is still `q`. -/
def Work.Silent (q : Byte) (w : Work) : Prop := (∀ d, w.commands d = []) ∧ w.ch.cmdSeq = q

/-- One command of channel `c` has been sent, with the sequence after `q`, which `CMD_SEQ` has become (R181). -/
def Work.Sent (c : Nat) (q : Byte) (w : Work) : Prop :=
  (∃ op, ∀ d, w.commands d = if d = c then [.writeCommand c (q + 1) op] else []) ∧ w.ch.cmdSeq = q + 1

/-- At most one command has been sent. -/
def Work.AtMostOne (c : Nat) (q : Byte) (w : Work) : Prop := w.Silent q ∨ w.Sent c q

section
variable {x : Ctx} {c : Nat} {q : Byte} {v w : Work}

theorem Work.silent_start (ch : Chan) : (Work.start ch).Silent ch.cmdSeq := ⟨fun _ => rfl, rfl⟩

/-- Work that sends nothing more and keeps `CMD_SEQ`. -/
theorem Work.Silent.congr (h : w.Silent q) (hc : ∀ d, v.commands d = w.commands d)
    (hs : v.ch.cmdSeq = w.ch.cmdSeq) : v.Silent q := by
  obtain ⟨hn, hq⟩ := h
  exact ⟨fun d => (hc d).trans (hn d), hs.trans hq⟩

theorem Work.Sent.congr (h : w.Sent c q) (hc : ∀ d, v.commands d = w.commands d)
    (hs : v.ch.cmdSeq = w.ch.cmdSeq) : v.Sent c q := by
  obtain ⟨⟨op, hop⟩, hq⟩ := h
  exact ⟨⟨op, fun d => (hc d).trans (hop d)⟩, hs.trans hq⟩

theorem Work.AtMostOne.congr (h : w.AtMostOne c q) (hc : ∀ d, v.commands d = w.commands d)
    (hs : v.ch.cmdSeq = w.ch.cmdSeq) : v.AtMostOne c q :=
  h.imp (·.congr hc hs) (·.congr hc hs)

theorem issueCmd_sent (op : Opcode) (h : w.Silent q) : (issueCmd x op w).Sent x.c q := by
  obtain ⟨hn, rfl⟩ := h
  refine ⟨⟨op, fun d => ?_⟩, rfl⟩
  have hc : (issueCmd x op w).commands d = w.commands d ++ [.writeCommand x.c (w.ch.cmdSeq + 1) op].filter (isCommand d) :=
    Work.emit_commands ..
  rw [hc, hn d, List.nil_append]
  by_cases hd : d = x.c
  · simp [hd, isCommand]
  · simp [hd, isCommand, Ne.symm hd]

/-! ### Operations that may send one -/

theorem startFlush_atMostOne (h : w.Silent q) : (startFlush x w).AtMostOne x.c q := by
  simp only [startFlush]
  split
  · exact .inl h
  · exact .inr ((issueCmd_sent _ h).congr (fun _ => rfl) rfl)

theorem enterBusOff_atMostOne (h : w.Silent q) : (enterBusOff x w).AtMostOne x.c q := by
  have ht : (setTx x false w.ch.txFull w).Silent q := h.congr (fun d => by simp) (by simp)
  simp only [enterBusOff]
  split
  · exact startFlush_atMostOne ht
  · exact .inl ht

theorem changeState_atMostOne (new : BusState) (h : w.Silent q) : (changeState x new w).AtMostOne x.c q := by
  have h1 : ((w.upd fun ch => { ch with busState := new, cnt := countChange new ch.cnt }).emit
      (.onBusStateChange x.c w.ch.busState new)).Silent q := h.congr (fun d => by simp [isCommand]) (by simp)
  have h2 := enterBusOff_atMostOne (x := x) h1
  simp only [changeState]
  split
  · split
    · exact h2.congr (fun d => by simp [isCommand]) (by simp)
    · exact .inl (h1.congr (fun d => by simp [isCommand]) (by simp))
  · split
    · exact h2
    · exact .inl h1

theorem handleError_atMostOne (ts : Stamp) (p : ErrorPkt) (h : w.Silent q) :
    (handleError ts p x w).AtMostOne x.c q := by
  have hc := changeState_atMostOne (x := x) (classify p.txerr p.rxerr (errorFlags p)).state h
  simp only [handleError]
  split
  · exact .inl h
  · split
    · exact hc.congr (fun d => by simp) (by simp)
    · exact .inl (h.congr (fun d => by simp) (by simp))

theorem statusResponse_atMostOne (ts : Stamp) (p : StatusPkt) (h : w.Silent q) :
    (statusResponse ts p x w).AtMostOne x.c q := by
  have hc := changeState_atMostOne (x := x) (classify p.txerr p.rxerr (statusFlags p)).state h
  simp only [statusResponse]
  split
  · exact .inl h
  · split
    · split <;> exact hc.congr (fun d => by simp) (by simp)
    · split <;> exact .inl (h.congr (fun d => by simp) (by simp))

theorem pollExpire_atMostOne (h : w.Silent q) : (pollExpire x w).AtMostOne x.c q := by
  have h1 : ((w.emit (.setModeBits x.c maskEpen maskEpen)).upd fun ch => { ch with errGenEn := true }).Silent q :=
    h.congr (fun d => by simp [isCommand]) (by simp)
  simp only [pollExpire]
  split
  · exact .inl (h.congr (fun d => by simp) (by simp))
  · split
    · exact .inl h
    · exact .inr ((issueCmd_sent .requestStatus h1).congr (fun _ => rfl) rfl)

/-! ### The handlers -/

/-- A completed bus-on: no command, and `CMD_SEQ` is reset (R23, R192). -/
def Work.Restarted (c : Nat) (w : Work) : Prop :=
  (∀ d, w.commands d = []) ∧ w.ch.cmdSeq = 0 ∧ .opDone c .buson .ok ∈ w.out

/-- A handler that sends at most one command, or completes a bus-on. -/
def Commands (f : Ctx → Work → Work) : Prop :=
  ∀ x ch, (f x (Work.start ch)).AtMostOne x.c ch.cmdSeq ∨ (f x (Work.start ch)).Restarted x.c

/-- A handler that sends at most one command whatever the work before it, if that has sent none. -/
theorem commands_of_atMostOne {f : Ctx → Work → Work}
    (h : ∀ x q w, w.Silent q → (f x w).AtMostOne x.c q) : Commands f :=
  fun x ch => .inl (h x ch.cmdSeq _ (Work.silent_start ch))

theorem stopDone_silent (r : Result) (h : w.Silent q) : (stopDone x r w).Silent q :=
  h.congr (fun d => by simp [stopDone, isCommand]) (by simp [stopDone, releaseAll])

theorem handleEflushAck_silent (seq : Byte) (h : w.Silent q) : (handleEflushAck seq x w).Silent q := by
  have hclear : (clearFlush w).Silent q := h.congr (fun d => by simp) (by simp)
  simp only [handleEflushAck]
  split
  · exact h.congr (fun d => by simp) (by simp)
  · split
    · exact hclear.congr (fun d => by simp [flushAckedBuson, isCommand]) (by simp [flushAckedBuson])
    · exact stopDone_silent .ok hclear
    · exact hclear

theorem startDone_restarted (h : w.Silent q) : (startDone x w).Restarted x.c := by
  obtain ⟨hn, -⟩ := h
  refine ⟨fun d => ?_, ?_, ?_⟩
  · simp [startDone, isCommand, hn d]
  · simp [startDone]
  · simp [startDone]

theorem commands_handleStatus (ts : Stamp) (p : StatusPkt) : Commands (handleStatus ts p) := by
  intro x ch
  have h := Work.silent_start ch
  simp only [handleStatus]
  split
  · exact .inr (startDone_restarted h)
  refine .inl ?_
  split
  · exact .inr ((issueCmd_sent _ h).congr (fun _ => rfl) rfl)
  split
  · simp only [eofOrDefer]
    split <;> exact .inl (h.congr (fun d => by simp) (by simp))
  split
  · exact statusResponse_atMostOne ts p h
  · simp only [ignoreStatus]
    split <;> exact .inl (h.congr (fun d => by simp) (by simp))

theorem release_silent (ts : Stamp) (p : AckPkt) (i : Nat) (h : w.Silent q) : (release ts p x i w).Silent q := by
  simp only [release, resumeCheck]
  split <;> split <;> exact h.congr (fun d => by simp [isCommand]) (by simp [releaseSlot])

theorem handleAck_silent (ts : Stamp) (p : AckPkt) (h : w.Silent q) : (handleAck ts p x w).Silent q := by
  have hnack : (handleNack ts p x w).Silent q := by
    simp only [handleNack]
    split
    · exact h.congr (fun d => by simp) (by simp)
    · exact h
  have hslot : (ackSlot ts p x (handleNack ts p x w)).Silent q := by
    simp only [ackSlot]
    split
    · exact hnack.congr (fun d => by simp) (by simp)
    · split
      · exact hnack.congr (fun d => by simp) (by simp [releaseSlot])
      · exact release_silent ts p _ hnack
  simp only [handleAck, deferredEof]
  split
  · exact h
  · split
    · exact hslot.congr (fun d => by simp) (by simp)
    · exact hslot

theorem requestBuson_atMostOne (h : w.Silent q) : (requestBuson x w).AtMostOne x.c q := by
  simp only [requestBuson]
  split
  · exact .inl (h.congr (fun d => by simp) (by simp))
  · have hpoll : (w.upd fun ch => { ch with pollCnt := 0 }).Silent q := h.congr (fun d => by simp) (by simp)
    exact (startFlush_atMostOne hpoll).congr (fun d => by simp [block]) (by simp [block])

theorem requestStop_atMostOne (h : w.Silent q) : (requestStop x w).AtMostOne x.c q := by
  simp only [requestStop]
  split
  · exact .inl (h.congr (fun d => by simp) (by simp))
  · have htx : (setTx x false w.ch.txFull w).Silent q := h.congr (fun d => by simp) (by simp)
    exact (startFlush_atMostOne htx).congr (fun d => by simp [block]) (by simp [block])

theorem requestSubmit_silent (f : TxFrame) (a b : Byte) (h : w.Silent q) : (requestSubmit f a b x w).Silent q := by
  have hret : ∀ r, (w.return r).Silent q := fun r => h.congr (fun d => by simp) (by simp)
  simp only [requestSubmit]
  split
  · exact hret _
  split
  · exact hret _
  split
  · exact hret _
  · simp only [accept, stopCheck]
    split <;> exact h.congr (fun d => by simp [isCommand]) (by simp [fillSlot])

theorem tickWait_silent (h : w.Silent q) : (tickWait x w).Silent q := by
  have hdec : (w.upd fun ch => { ch with waitCnt := ch.waitCnt - 1 }).Silent q := h.congr (fun d => by simp) (by simp)
  simp only [tickWait]
  split
  · exact h
  split
  · simp only [waitExpire]
    split
    · exact hdec.congr (fun d => by simp [isCommand]) (by simp)
    · exact stopDone_silent .timeout (hdec.congr (fun d => by simp) (by simp))
    · exact hdec
  · exact hdec

theorem tickPoll_atMostOne (h : w.Silent q) : (tickPoll x w).AtMostOne x.c q := by
  have hdec : (w.upd fun ch => { ch with pollCnt := ch.pollCnt - 1 }).Silent q := h.congr (fun d => by simp) (by simp)
  simp only [tickPoll]
  split
  · exact .inl h
  split
  · exact pollExpire_atMostOne hdec
  · exact .inl hdec

theorem handleData_silent (ts : Stamp) (p : DataPkt) (h : w.Silent q) : (handleData ts p x w).Silent q := by
  simp only [handleData]
  split <;> exact h.congr (fun d => by simp [isCommand]) (by simp)

end

theorem commands_tickChan : Commands tickChan :=
  commands_of_atMostOne fun _ _ _ h => tickPoll_atMostOne (tickWait_silent h)

theorem PacketHandler.commands {f : Ctx → Work → Work} (hf : PacketHandler f) : Commands f := by
  cases hf with
  | data ts p => exact commands_of_atMostOne fun _ _ _ h => .inl (handleData_silent ts p h)
  | ack ts p => exact commands_of_atMostOne fun _ _ _ h => .inl (handleAck_silent ts p h)
  | error ts p => exact commands_of_atMostOne fun _ _ _ h => handleError_atMostOne ts p h
  | eflushAck seq => exact commands_of_atMostOne fun _ _ _ h => .inl (handleEflushAck_silent seq h)
  | status ts p => exact commands_handleStatus ts p
  | unexpected => exact commands_of_atMostOne fun _ _ _ h => .inl (h.congr (fun _ => rfl) rfl)
  | unknown typ => exact commands_of_atMostOne fun _ _ _ h => .inl (h.congr (fun _ => rfl) rfl)

theorem RequestHandler.commands {f : Ctx → Work → Work} (hf : RequestHandler f) : Commands f := by
  cases hf with
  | buson => exact commands_of_atMostOne fun _ _ _ h => requestBuson_atMostOne h
  | stop => exact commands_of_atMostOne fun _ _ _ h => requestStop_atMostOne h
  | submit f a b => exact commands_of_atMostOne fun _ _ _ h => .inl (requestSubmit_silent f a b h)

/-! ### The operations -/

/-- From `s` to `t` nothing of channel `c` changes, and no command of it is sent. -/
def QuietFor (c : Nat) (s t : State) : Prop :=
  t.channels[c]? = s.channels[c]? ∧ ∃ evs, t.trace = s.trace ++ evs ∧ evs.filter (isCommand c) = []

/-- From `CMD_SEQ` = `q` to `q'` with the outputs `evs`: no command, a completed bus-on, or one command (R23, R181). -/
def CommandStep (c : Nat) (q q' : Byte) (evs : List Event) : Prop :=
  (evs.filter (isCommand c) = [] ∧ q' = q) ∨
    (evs.filter (isCommand c) = [] ∧ q' = 0 ∧ .opDone c .buson .ok ∈ evs) ∨
    ∃ op, evs.filter (isCommand c) = [.writeCommand c (q + 1) op] ∧ q' = q + 1

/-- From `s` to `t` channel `c`, where it exists in both, makes one command step. -/
def StepsCommands (c : Nat) (s t : State) : Prop :=
  ∃ evs, t.trace = s.trace ++ evs ∧ ∀ ch ch' : Chan, s.channels[c]? = some ch → t.channels[c]? = some ch' →
    CommandStep c ch.cmdSeq ch'.cmdSeq evs

section
variable {s t u : State} {c : Nat}

theorem quietFor_of_eq (hc : t.channels[c]? = s.channels[c]?) (ht : t.trace = s.trace) : QuietFor c s t :=
  ⟨hc, [], by simp [ht], rfl⟩

theorem QuietFor.trans (h : QuietFor c s t) (h' : QuietFor c t u) : QuietFor c s u := by
  obtain ⟨hc, evs, ht, hn⟩ := h
  obtain ⟨hc', evs', ht', hn'⟩ := h'
  exact ⟨hc'.trans hc, evs ++ evs', by rw [ht', ht, List.append_assoc], by rw [List.filter_append, hn, hn']; rfl⟩

theorem QuietFor.stepsCommands (h : QuietFor c s t) : StepsCommands c s t := by
  obtain ⟨hc, evs, ht, hn⟩ := h
  refine ⟨evs, ht, fun ch ch' hch hch' => .inl ⟨hn, ?_⟩⟩
  rw [hc, hch] at hch'
  cases hch'
  rfl

/-- Outputs that are no commands of the channel, before or after, leave a command step what it is. -/
theorem CommandStep.append {q q' : Byte} {evs pre post : List Event} (h : CommandStep c q q' evs)
    (hpre : pre.filter (isCommand c) = []) (hpost : post.filter (isCommand c) = []) :
    CommandStep c q q' (pre ++ evs ++ post) := by
  have hf : (pre ++ evs ++ post).filter (isCommand c) = evs.filter (isCommand c) := by
    simp only [List.filter_append, hpre, hpost, List.nil_append, List.append_nil]
  simp only [CommandStep, hf] at h ⊢
  exact h.imp_right (Or.imp_left fun ⟨hn, hq, hm⟩ => ⟨hn, hq, by simp [hm]⟩)

theorem QuietFor.trans_stepsCommands (h : QuietFor c s t) (h' : StepsCommands c t u) : StepsCommands c s u := by
  obtain ⟨hc, evs, ht, hn⟩ := h
  obtain ⟨evs', ht', hs⟩ := h'
  refine ⟨evs ++ evs', by rw [ht', ht, List.append_assoc], fun ch ch' hch hch' => ?_⟩
  simpa using (hs ch ch' (hc.trans hch) hch').append hn (post := []) rfl

theorem StepsCommands.trans_quietFor (h : StepsCommands c s t) (h' : QuietFor c t u) : StepsCommands c s u := by
  obtain ⟨evs, ht, hs⟩ := h
  obtain ⟨hc, evs', ht', hn⟩ := h'
  refine ⟨evs ++ evs', by rw [ht', ht, List.append_assoc], fun ch ch' hch hch' => ?_⟩
  simpa using (hs ch ch' hch (hc.symm.trans hch')).append (pre := []) rfl hn

/-! A handler on a channel -/

/-- A handler sends no command of another channel. -/
theorem quietFor_commit {d : Nat} {x : Chan} {f : Ctx → Work → Work} (hf : Commands f) (hd : d ≠ c) :
    QuietFor c s (s.commit d (f (s.ctx d) (Work.start x))) := by
  refine ⟨by simp [List.getElem?_set_ne hd], _, rfl, ?_⟩
  obtain (⟨hn, -⟩ | ⟨⟨op, hop⟩, -⟩) | ⟨hn, -, -⟩ := hf (s.ctx d) x
  · exact hn c
  · exact (hop c).trans (if_neg hd.symm)
  · exact hn c

theorem stepsCommands_commit {x : Chan} {f : Ctx → Work → Work} (hf : Commands f) (hg : s.channels[c]? = some x) :
    StepsCommands c s (s.commit c (f (s.ctx c) (Work.start x))) := by
  refine ⟨_, rfl, fun ch ch' hch hch' => ?_⟩
  cases hg.symm.trans hch
  rw [State.commit_channels, List.getElem?_set_self (lt_of_get hg)] at hch'
  cases hch'
  obtain (⟨hn, hq⟩ | ⟨⟨op, hop⟩, hq⟩) | ⟨hn, hq, hm⟩ := hf (s.ctx c) x
  · exact .inl ⟨hn c, hq⟩
  · exact .inr (.inr ⟨op, (hop c).trans (if_pos rfl), hq⟩)
  · exact .inr (.inl ⟨hn c, hq, hm⟩)

theorem stepsCommands_commit_any {d : Nat} {x : Chan} {f : Ctx → Work → Work} (hf : Commands f)
    (hg : s.channels[d]? = some x) : StepsCommands c s (s.commit d (f (s.ctx d) (Work.start x))) := by
  by_cases hd : d = c
  · subst hd
    exact stepsCommands_commit hf hg
  · exact (quietFor_commit hf hd).stepsCommands

theorem stepsCommands_onChan {f : Ctx → Work → Work} (hf : Commands f) (d : Nat) :
    StepsCommands c s (s.onChan d f) := by
  obtain ⟨-, he⟩ | ⟨x, hg, he⟩ := s.onChan_cases d f <;> rw [he]
  · exact (quietFor_of_eq rfl rfl).stepsCommands
  · exact stepsCommands_commit_any hf hg

theorem quietFor_onChan {d : Nat} {f : Ctx → Work → Work} (hf : Commands f) (hd : d ≠ c) :
    QuietFor c s (s.onChan d f) := by
  obtain ⟨-, he⟩ | ⟨x, -, he⟩ := s.onChan_cases d f <;> rw [he]
  · exact quietFor_of_eq rfl rfl
  · exact quietFor_commit hf hd

theorem stepsCommands_onRequest {f : Ctx → Work → Work} (hf : Commands f) (d : Nat) :
    StepsCommands c s (s.onRequest d f) := by
  cases hg : s.channels[d]? with
  | none => rw [State.onRequest_of_none f hg]; exact (quietFor_of_eq rfl rfl).stepsCommands
  | some x =>
    rw [State.onRequest_of_get f hg]
    exact (stepsCommands_commit_any hf hg).trans_quietFor (quietFor_of_eq rfl rfl)

theorem stepsCommands_dispatch {f : Ctx → Work → Work} (hf : Commands f) (d : BitVec 3) :
    StepsCommands c s (s.dispatch d f) := by
  obtain ⟨x, hg, he⟩ | ⟨-, he⟩ := s.dispatch_cases d f <;> rw [he]
  · exact stepsCommands_commit_any hf hg
  · exact (quietFor_of_eq rfl rfl).stepsCommands

theorem quietFor_endConsume : QuietFor c s s.endConsume := ⟨rfl, _, State.endConsume_trace s, rfl⟩

theorem quietFor_abortConsume (x : Exc) : QuietFor c s (s.abortConsume x) := ⟨rfl, _, State.abortConsume_trace s x, rfl⟩

theorem quietFor_framingCheck (size len : Nat) : QuietFor c s (s.framingCheck size len) := by
  by_cases hl : len = size
  · rw [hl, State.framingCheck_same]
    exact quietFor_of_eq rfl rfl
  · rw [State.framingCheck_ne s hl]
    exact quietFor_abortConsume _

/-! The tick -/

/-- The visits of later channels are not seen by channel `c`. -/
theorem quietFor_tickFrom {d : Nat} (n : Nat) (hd : c < d) : QuietFor c s (s.tickFrom d n) := by
  induction n generalizing s d with
  | zero => exact quietFor_of_eq rfl rfl
  | succ n ih => exact (quietFor_onChan commands_tickChan (by omega)).trans (ih (by omega))

/-- A tick visits channel `c` at most once. -/
theorem stepsCommands_tickFrom (d n : Nat) : StepsCommands c s (s.tickFrom d n) := by
  induction n generalizing s d with
  | zero => exact (quietFor_of_eq rfl rfl).stepsCommands
  | succ n ih =>
    by_cases hd : d = c
    · exact (stepsCommands_onChan commands_tickChan d).trans_quietFor (quietFor_tickFrom n (by omega))
    · exact (quietFor_onChan commands_tickChan hd).trans_stepsCommands (ih (d + 1))

theorem Effect.stepsCommands {i : Instr} (he : Effect s i t) (ha : s.attached = true) : StepsCommands c s t := by
  cases he with
  | packet _ hf _ => exact (stepsCommands_dispatch hf.commands _).trans_quietFor (quietFor_framingCheck _ _)
  | request hf => exact stepsCommands_onRequest hf.commands _
  | tick => exact stepsCommands_tickFrom _ _
  | attached hd _ => cases hd.symm.trans ha
  | detached => exact ⟨[], (List.append_nil _).symm, fun _ _ _ h => by simp at h⟩
  | endOfFill => exact quietFor_endConsume.stepsCommands
  | malformed => exact (quietFor_abortConsume _).stepsCommands
  | delivered | attachRefused | rxServed | rxHeld | rxAlreadyPending | held | acknowledged =>
    exact (quietFor_of_eq rfl rfl).stepsCommands

end

/-- Settles O55: a handler works on one channel and sends at most one command; a tick visits each channel once. -/
theorem commandSequenceStepsByOne : Obligations.CommandSequenceStepsByOne := by
  intro i s t c ch ch' he ha hch hch'
  obtain ⟨evs, ht, hs⟩ := (exec_effect he).stepsCommands (c := c) ha
  exact ⟨evs, ht, hs ch ch' hch hch'⟩

end Sys2Proof.Machine
end

section
/-! Channels are independent (10_state.md R20, 70_reset_and_hazards.md R312): the operations of one channel commute with
replacing the context of another. -/

namespace Sys2Proof.Machine

/-- `s` with another context of channel `d`. -/
def State.replaceChan (s : State) (d : Nat) (x : Chan) : State := { s with channels := s.channels.set d x }

section
variable {s t : State} {c d : Nat} {x : Chan}

theorem State.replaceChan_get (hd : d ≠ c) : (s.replaceChan d x).channels[c]? = s.channels[c]? :=
  List.getElem?_set_ne hd

theorem State.replaceChan_length : (s.replaceChan d x).channels.length = s.channels.length := List.length_set

theorem State.replaceChan_commit (hd : d ≠ c) (w : Work) :
    (s.replaceChan d x).commit c w = (s.commit c w).replaceChan d x := by
  simp only [State.commit, State.emits, State.replaceChan, List.set_comm _ _ hd]

theorem State.replaceChan_onRequest (hd : d ≠ c) (f : Ctx → Work → Work) :
    (s.replaceChan d x).onRequest c f = (s.onRequest c f).replaceChan d x := by
  cases hg : s.channels[c]? with
  | none => rw [State.onRequest_of_none f hg, State.onRequest_of_none f ((State.replaceChan_get hd).trans hg)]
  | some ch =>
    rw [State.onRequest_of_get f hg, State.onRequest_of_get f ((State.replaceChan_get hd).trans hg),
      State.replaceChan_commit hd]
    rfl

theorem State.replaceChan_dispatch {b : BitVec 3} (hd : d ≠ b.toNat) (f : Ctx → Work → Work) :
    (s.replaceChan d x).dispatch b f = (s.dispatch b f).replaceChan d x := by
  obtain ⟨ch, hg, he⟩ | ⟨hl, he⟩ := s.dispatch_cases b f <;> rw [he]
  · rw [State.dispatch_of_get f ((State.replaceChan_get hd).trans hg)]
    exact State.replaceChan_commit hd _
  · rw [State.dispatch_invalid f (State.replaceChan_length.trans_le hl)]
    rfl

theorem State.replaceChan_framingCheck (size len : Nat) :
    (s.replaceChan d x).framingCheck size len = (s.framingCheck size len).replaceChan d x := by
  by_cases hl : len = size
  · rw [hl, State.framingCheck_same, State.framingCheck_same]
    rfl
  · rw [State.framingCheck_ne _ hl, State.framingCheck_ne _ hl]
    rfl

/-! ### The operations of one channel -/

theorem packet_replaceChan {h : Hdr} {len : Nat} {f : Ctx → Work → Work} (hd : d ≠ h.ch.toNat)
    (he : s.packet h len f = .next t) : (s.replaceChan d x).packet h len f = .next (t.replaceChan d x) := by
  obtain ⟨ha, hb, rfl⟩ := State.packet_next.1 he
  refine State.packet_next.2 ⟨ha, hb, ?_⟩
  rw [State.replaceChan_dispatch hd, State.replaceChan_framingCheck]

theorem request_replaceChan {f : Ctx → Work → Work} (hd : d ≠ c)
    (he : s.whenAttached (s.whenChan c (.next (s.onRequest c f))) = .next t) :
    (s.replaceChan d x).whenAttached ((s.replaceChan d x).whenChan c (.next ((s.replaceChan d x).onRequest c f))) =
      .next (t.replaceChan d x) := by
  obtain ⟨ha, he⟩ := State.whenAttached_next.1 he
  obtain ⟨hc, ⟨⟩⟩ := State.whenChan_next.1 he
  refine State.whenAttached_next.2 ⟨ha, State.whenChan_next.2 ⟨hc.trans_eq State.replaceChan_length.symm, ?_⟩⟩
  rw [State.replaceChan_onRequest hd]

theorem txStatus_replaceChan (he : execTxStatus c s = .next t) :
    execTxStatus c (s.replaceChan d x) = .next (t.replaceChan d x) := by
  obtain ⟨ha, he⟩ := State.whenAttached_next.1 he
  obtain ⟨hc, ⟨⟩⟩ := State.whenChan_next.1 he
  refine State.whenAttached_next.2 ⟨ha, State.whenChan_next.2 ⟨hc.trans_eq State.replaceChan_length.symm, ?_⟩⟩
  exact congrArg _ (apply_ite (State.replaceChan · d x) (s.notifyBusy = true) (s.hold (.txStatus c)) s.ackNotification).symm

/-- An operation that acts on a channel is a ring packet for it or one of the four requests that name it. -/
theorem actsOn_cases {i : Instr} (hi : actsOn i = some c) :
    (∃ h, ringHdr i = some h ∧ h.ch.toNat = c) ∨ i = .buson c ∨ i = .stop c ∨ (∃ f a b, i = .submit c f a b) ∨
      i = .txStatus c := by
  cases i with
  | buson => cases hi; exact .inr (.inl rfl)
  | stop => cases hi; exact .inr (.inr (.inl rfl))
  | submit _ f a b => cases hi; exact .inr (.inr (.inr (.inl ⟨f, a, b, rfl⟩)))
  | txStatus => cases hi; exact .inr (.inr (.inr (.inr rfl)))
  | data h | ack h | txrq h | error h | eflushAck h | eframeAck h | ackData h | unknown7 h | status h | busLoad h
  | unknownA h | unknownB h | unknownC h | unknownD h | unknownE h | unknownF h => exact .inl ⟨h, rfl, Option.some.inj hi⟩
  | _ => cases hi

end

/-- Settles O53: each operation of a channel reads and writes its own context only, so it commutes with `replaceChan`. -/
theorem channelsAreIndependent : Obligations.ChannelsAreIndependent := by
  intro i s t c d x hi hd he
  obtain ⟨h, hr, rfl⟩ | rfl | rfl | ⟨f, a, b, rfl⟩ | rfl := actsOn_cases hi
  · obtain ⟨f, -, hf⟩ := exec_packet hr
    rw [hf] at he ⊢
    exact packet_replaceChan hd he
  · exact request_replaceChan hd he
  · exact request_replaceChan hd he
  · exact request_replaceChan hd he
  · exact txStatus_replaceChan he

end Sys2Proof.Machine
end

section
/-! The state after reset (70_reset_and_hazards.md R300), and requests for no channel (10_state.md R20). -/

namespace Sys2Proof.Machine

theorem cfgLegal_attachCfg : cfgLegal Config.attachCfg := by decide

theorem channelsInv_reset : channelsInv State.reset := by
  refine fun _ => ⟨cfgLegal_attachCfg, List.length_replicate, fun ch hch => ?_⟩
  rw [List.eq_of_mem_replicate hch]
  exact chanInv_resetChan List.length_replicate (by decide)

theorem pendingInv_reset : pendingInv State.reset := by
  intro b
  cases b <;> rfl

theorem runInv_reset : runInv State.reset :=
  ⟨rfl, channelsInv_reset, ⟨rfl, fun _ h => absurd h List.not_mem_nil⟩, fun _ h => absurd h List.not_mem_nil⟩

/-- Settles O13: the contexts are those of an attach under a legal configuration, and nothing is pending, consumed or on
its way to a register. -/
theorem resetIsLegal : Obligations.ResetIsLegal :=
  ⟨⟨.nil, fun _ h => absurd h List.not_mem_nil⟩, channelsInv_reset, by decide, pendingInv_reset, runInv_reset⟩

theorem State.whenAttached_attached {s : State} (ha : s.attached = true) (k : Host.Outcome State Fault Refusal) :
    s.whenAttached k = k := if_pos ha

theorem State.whenChan_missing {s : State} {c : Nat} (hc : s.channels.length ≤ c)
    (k : Host.Outcome State Fault Refusal) : s.whenChan c k = .refused (.noSuchChannel c) := if_neg (by omega)

/-- Settles O20: the four operations ask for the attachment, then for their channel, before anything else. -/
theorem requestsForNoChannelAreRefused : Obligations.RequestsForNoChannelAreRefused := by
  intro s c f a b ha hc i hi
  have refuses (k : Host.Outcome State Fault Refusal) :
      s.whenAttached (s.whenChan c k) = .refused (.noSuchChannel c) := by
    rw [State.whenAttached_attached ha, State.whenChan_missing hc]
  simp only [List.mem_cons, List.not_mem_nil, or_false] at hi
  obtain rfl | rfl | rfl | rfl := hi <;> exact refuses _

end Sys2Proof.Machine
end

section
/-! The streams of the fetch: the operation each brings, and what every step keeps, from what the operations keep. -/

namespace Sys2Proof.Machine

/-! ### The decoded operation of each stream -/

theorem runFetched_ok {f : Fetched} {i : Instr} (hd : decode f = .ok i) (s : State) : runFetched f s = .run i s := by
  simp only [runFetched, hd]

/-- The idle handler takes the pending source its turn picks (R280, R284). -/
theorem notifyTurn_held {s : State} {k : Nat} {i : Instr} (hb : s.notifyBusy = false)
    (hi : s.held[k % s.held.length]? = some i) :
    notifyTurn k s = .run i { s with held := s.held.eraseIdx (k % s.held.length) } := by
  simp [notifyTurn, takeHeld, hb, hi]

theorem State.held_ne_nil_of_get {s : State} {k : Nat} {i : Instr} (hi : s.held[k]? = some i) : s.held ≠ [] :=
  List.ne_nil_of_mem (List.mem_of_getElem? hi)

/-- Settles O1: the five streams of the fetch, in the order in which it looks at them. -/
theorem stepRunsTheDecodedOperation : Obligations.StepRunsTheDecodedOperation := by
  refine ⟨fun s w rest i ho hd => ?_, fun s m rest i ho ha hd => ?_, fun s s' i ht hb hc hd => ?_,
    fun s d k rest i ho ha hb hi => ?_, fun s i ho ha hb hi => ?_⟩
  · exact step_run ((nextOp_outbox ho).trans (runFetched_ok hd _))
  · exact step_run ((nextOp_request ho ha).trans (runFetched_ok hd _))
  · refine step_run ((nextOp_handlerTurn ht hb).trans ?_)
    obtain ⟨-, ⟨d, k, rest, -, rfl⟩ | ⟨-, rfl⟩⟩ := ht
    · exact ringTurn_ok hc hd
    · exact ringTurn_ok hc hd
  · refine step_run ((nextOp_turn ho ha).trans ?_)
    exact notifyTurn_held (by exact hb) hi
  · refine step_run ((nextOp_held ho ha (State.held_ne_nil_of_get hi)).trans ?_)
    exact notifyTurn_held (by exact hb) hi

/-! ### Preservation by every step -/

/-- What is to be shown of a property for every step to keep it: one field for each way a step goes on. -/
structure KeptByStep (P : State → Prop) : Prop where
  stream {s : State} (out : List RegWrite) (arr : List Arrival) (d : Draw) (n : Nat) (h : P s) :
    P { s with outbox := out, arrivals := arr, draw := d, freeCount := n }
  operation {s t : State} {i : Instr} (h : P s) (he : exec i s = .next t) : P t
  pending {s t : State} {i : Instr} {k : Nat} (h : P s) (hb : s.notifyBusy = false) (hi : s.held[k]? = some i)
    (he : exec i { s with held := s.held.eraseIdx k } = .next t) : P t
  fill {s t : State} {b : Buf} {off : Nat} {bytes : List Byte} (h : P s)
    (he : hardwareFill b off bytes s = .next t) : P t
  overrun {s t : State} (h : P s) (he : s.malformed .overrun = .next t) : P t

section
variable {P : State → Prop} {s t : State}

theorem KeptByStep.runFetched (hP : KeptByStep P) {f : Fetched} (h : P s)
    (he : (runFetched f s).perform = .next t) : P t := by
  unfold Machine.runFetched at he
  split at he
  · exact hP.operation h he
  · cases he

/-- At the bound the consumer does what the end marker does (R162, R164). -/
theorem KeptByStep.ringTurn (hP : KeptByStep P) (h : P s) (he : (ringTurn s).perform = .next t) : P t := by
  obtain ⟨-, hr⟩ | ⟨-, hr⟩ | ⟨i, -, -, hr⟩ := ringTurn_cases s <;> rw [hr] at he
  · exact hP.operation (i := .endMark) h he
  · exact hP.overrun h he
  · exact hP.operation h he

theorem KeptByStep.notifyTurn (hP : KeptByStep P) {k : Nat} (h : P s) (he : (notifyTurn k s).perform = .next t) :
    P t := by
  obtain ⟨-, hn⟩ | ⟨hb, i, hi, hn⟩ | ⟨-, -, hn⟩ := notifyTurn_cases k s <;> rw [hn] at he
  · exact hP.ringTurn h he
  · exact hP.pending h hb hi he
  · cases he
    exact h

/-- The streams are the fetch's; what each brings keeps the property. -/
theorem KeptByStep.step (hP : KeptByStep P) (h : P s) (he : step s = .next t) : P t := by
  rw [step_eq_perform] at he
  cases ho : s.outbox with
  | cons w rest =>
    rw [nextOp_outbox ho] at he
    exact hP.runFetched (hP.stream rest s.arrivals s.draw s.freeCount h) he
  | nil =>
    cases ha : s.arrivals with
    | nil =>
      simp only [nextOp, ho, ha] at he
      refine hP.notifyTurn ?_ he
      split
      · exact hP.stream s.outbox s.arrivals (Config.freeDraw s.freeCount) (s.freeCount + 1) h
      · exact h
    | cons a rest =>
      cases a with
      | request m =>
        rw [nextOp_request ho ha] at he
        exact hP.runFetched (hP.stream s.outbox rest s.draw s.freeCount h) he
      | fill b off bytes =>
        rw [nextOp_fill ho ha] at he
        exact hP.fill (hP.stream s.outbox rest s.draw s.freeCount h) he
      | turn d k =>
        rw [nextOp_turn ho ha] at he
        exact hP.notifyTurn (hP.stream s.outbox rest d s.freeCount h) he

end

end Sys2Proof.Machine
end

section
/-! The DMA buffers (20_memory.md R61, R71, R76): the words the core reads, and what a write of the hardware does. -/

namespace Sys2Proof

/-- A field placed above all the bits of a word adds its value, shifted. -/
theorem toNat_or_putField {n : Nat} (w : Word) (v : BitVec n) {lo : Nat} (hw : w.toNat < 2 ^ lo) (hlo : lo + n ≤ 32) :
    (w ||| putField v lo).toNat = w.toNat + 2 ^ lo * v.toNat := by
  have hv : 2 ^ lo * v.toNat < 2 ^ 32 :=
    calc 2 ^ lo * v.toNat < 2 ^ lo * 2 ^ n := Nat.mul_lt_mul_of_pos_left v.isLt (Nat.two_pow_pos lo)
      _ = 2 ^ (lo + n) := (Nat.pow_add ..).symm
      _ ≤ 2 ^ 32 := Nat.pow_le_pow_right (by decide) hlo
  have hfield : (putField v lo).toNat = 2 ^ lo * v.toNat := by
    rw [putField, BitVec.toNat_shiftLeft, BitVec.toNat_setWidth_of_le (by omega), Nat.shiftLeft_eq, Nat.mul_comm,
      Nat.mod_eq_of_lt hv]
  rw [BitVec.toNat_or, hfield, Nat.or_comm, ← Nat.two_pow_add_eq_or_of_lt hw, Nat.add_comm]

/-- The value of a little-endian word (R61). -/
theorem toNat_wordOfBytes (a b c d : Byte) :
    (wordOfBytes a b c d).toNat = a.toNat + 2 ^ 8 * b.toNat + 2 ^ 16 * c.toNat + 2 ^ 24 * d.toNat := by
  have ha : (putField a 0).toNat = a.toNat := by
    rw [putField, BitVec.shiftLeft_zero, BitVec.toNat_setWidth_of_le (by decide)]
  have hab : (putField a 0 ||| putField b 8).toNat = a.toNat + 2 ^ 8 * b.toNat := by
    rw [toNat_or_putField _ b (by omega) (by decide), ha]
  have habc :
      (putField a 0 ||| putField b 8 ||| putField c 16).toNat = a.toNat + 2 ^ 8 * b.toNat + 2 ^ 16 * c.toNat := by
    rw [toNat_or_putField _ c (by omega) (by decide), hab]
  rw [wordOfBytes, toNat_or_putField _ d (by omega) (by decide), habc]

end Sys2Proof

namespace Sys2Proof.Machine

/-- Settles O8: the four bytes are fields of the word at disjoint places, so they add up. -/
theorem bufferWordsAreLittleEndian : Obligations.BufferWordsAreLittleEndian := by
  intro m b i
  simp only [memRead, readWord, toNat_wordOfBytes, Nat.add_assoc]

/-! ### A write of the hardware -/

/-- A range inside the 4096 bytes of a buffer is inside the space (R55). -/
theorem bufBase_add_le_memSize (b : Buf) {n : Nat} (h : n ≤ Config.bufBytes) : bufBase b + n ≤ memSize := by
  cases b <;> simp only [bufBase, Buf.num, memSize] <;> omega

theorem hardwareFill_next {s t : State} {b : Buf} {off : Nat} {bytes : List Byte} :
    hardwareFill b off bytes s = .next t ↔
      off + bytes.length ≤ Config.bufBytes ∧ (s.attached = true → s.rxPending.get b = false) ∧
        t = { s with mem := writeBytes s.mem (bufBase b + off) bytes } := by
  have hown : (s.attached = true → s.rxPending.get b = false) ↔ ¬ (s.attached && s.rxPending.get b) = true := by
    cases s.attached <;> simp
  unfold hardwareFill
  split
  · next hlt => exact iff_of_false nofun fun ⟨hle, _⟩ => absurd hlt (Nat.not_lt.2 hle)
  · next hle =>
    split
    · next howned => exact iff_of_false nofun fun ⟨_, hfree, _⟩ => hown.1 hfree howned
    · next hfree =>
      rw [Host.Outcome.next.injEq]
      exact ⟨fun h => ⟨Nat.not_lt.1 hle, hown.2 hfree, h.symm⟩, fun ⟨_, _, h⟩ => h.symm⟩

theorem memWf_fill {m : List Host.Cell} (hm : memWf m) (b : Buf) {off : Nat} {bytes : List Byte}
    (h : off + bytes.length ≤ Config.bufBytes) : memWf (writeBytes m (bufBase b + off) bytes) :=
  memWf_writeBytes hm bytes (Nat.add_assoc .. ▸ bufBase_add_le_memSize b h)

/-- Settles O9: the fill is taken, and reads after it follow the rules for written bytes. -/
theorem hardwareFillWritesItsBytesOnly : Obligations.HardwareFillWritesItsBytesOnly := by
  intro s b off bytes rest ho ha hm hlen hown
  have hin : bufBase b + off + bytes.length ≤ memSize := Nat.add_assoc .. ▸ bufBase_add_le_memSize b hlen
  refine ⟨writeBytes s.mem (bufBase b + off) bytes, ?_, memWf_fill hm b hlen, ?_, ?_⟩
  · exact (step_own (nextOp_fill ho ha)).trans (hardwareFill_next.2 ⟨hlen, hown, rfl⟩)
  · exact fun j hj => readByte_writeBytes_inside hm bytes j hj hin
  · exact fun a hout => readByte_writeBytes_outside s.mem bytes hout

theorem memWf_keptByStep : KeptByStep fun s => memWf s.mem where
  stream _ _ _ _ h := h
  operation h he := exec_keepsMem _ _ _ he ▸ h
  pending h _ _ he := exec_keepsMem _ _ _ he ▸ h
  fill h he := by
    obtain ⟨hlen, -, rfl⟩ := hardwareFill_next.1 he
    exact memWf_fill h _ hlen
  overrun h he := keepsMem_malformed _ _ _ he ▸ h

/-- Settles O11: only the hardware writes memory (R13), and what it writes inside a buffer keeps the canonical form. -/
theorem memoryStaysCanonical : Obligations.MemoryStaysCanonical := fun _ _ =>
  memWf_keptByStep.step

end Sys2Proof.Machine
end

section
/-! The pending bits (20_memory.md R76, 60_exceptions.md R280): a bit is set with the signal that is consumed or held,
and cleared where the consumption ends. -/

namespace Sys2Proof.Machine

section
variable {s t : State}

/-! ### The shared operations leave the signals alone -/

theorem pendingInv_onChan (c : Nat) (f : Ctx → Work → Work) (h : pendingInv s) : pendingInv (s.onChan c f) := by
  obtain ⟨-, he⟩ | ⟨ch, -, he⟩ := s.onChan_cases c f <;> rw [he] <;> exact h

theorem pendingInv_onRequest (c : Nat) (f : Ctx → Work → Work) (h : pendingInv s) :
    pendingInv (s.onRequest c f) := by
  cases hg : s.channels[c]? with
  | none => rwa [State.onRequest_of_none f hg]
  | some ch => rw [State.onRequest_of_get f hg]; exact h

theorem pendingInv_dispatch (c : BitVec 3) (f : Ctx → Work → Work) (h : pendingInv s) :
    pendingInv (s.dispatch c f) := by
  obtain ⟨ch, -, he⟩ | ⟨-, he⟩ := s.dispatch_cases c f <;> rw [he] <;> exact h

theorem pendingInv_tickFrom (c n : Nat) (h : pendingInv s) : pendingInv (s.tickFrom c n) := by
  induction n generalizing s c with
  | zero => exact h
  | succ n ih => exact ih (c + 1) (pendingInv_onChan c tickChan h)

/-! ### A consumption starts and ends -/

/-- The buffer served is consumed and no longer held; the signals of the other buffer stay (R280; log 16). -/
theorem pendingInv_startConsume (b : Buf) (h : pendingInv s) (hb : s.notifyBusy = false) :
    pendingInv ((s.unhold b).startConsume b) := by
  intro d
  have hd := h d
  by_cases hdb : d = b
  · subst hdb
    simp [List.count_eq_zero]
  · have hbd : (b == d) = false := beq_eq_false_iff_ne.2 (Ne.symm hdb)
    have hcount : (s.held.filter fun i => i ≠ .rxReady b).count (.rxReady d) = s.held.count (.rxReady d) :=
      List.count_filter (by simpa using hdb)
    simp only [hb, Bool.false_and, Bool.toNat_false] at hd
    simp only [State.startConsume_held, State.unhold_held, hcount, State.startConsume_curBuf, hbd, Bool.and_false,
      Bool.toNat_false, State.startConsume_rxPending, State.unhold_rxPending, Pair.get_set_ne _ _ _ _ hdb, hd]

/-- A consumed buffer is not held as well (R76), so nothing is pending of it once it is re-armed. -/
theorem pendingInv_endConsume (h : pendingInv s) (hb : s.notifyBusy = true) : pendingInv s.endConsume := by
  intro d
  have hd := h d
  by_cases hdc : d = s.curBuf
  · subst hdc
    have hle := Bool.toNat_le (s.rxPending.get s.curBuf)
    simp only [hb, beq_self_eq_true, Bool.and_self, Bool.toNat_true] at hd
    simp only [State.endConsume_held, State.endConsume_notifyBusy, State.endConsume_rxPending, Pair.get_set_same,
      Bool.false_and, Bool.toNat_false]
    omega
  · have hcd : (s.curBuf == d) = false := beq_eq_false_iff_ne.2 (Ne.symm hdc)
    simpa [hcd, Pair.get_set_ne _ _ _ _ hdc] using hd

theorem pendingInv_abortConsume (x : Exc) (h : pendingInv s) (hb : s.notifyBusy = true) :
    pendingInv (s.abortConsume x) :=
  pendingInv_endConsume (s := s.takeException x) h hb

theorem pendingInv_malformed {why : Malformed} (h : pendingInv s) (he : s.malformed why = .next t) : pendingInv t := by
  obtain ⟨-, hb, rfl⟩ := State.whenConsuming_next.1 he
  exact pendingInv_abortConsume _ h hb

theorem pendingInv_framingCheck (size len : Nat) (h : pendingInv s) (hb : s.notifyBusy = true) :
    pendingInv (s.framingCheck size len) := by
  by_cases hl : len = size
  · rw [hl, State.framingCheck_same]
    exact h
  · rw [State.framingCheck_ne s hl]
    exact pendingInv_abortConsume _ h hb

/-! ### A notification is held -/

/-- A first signal of a buffer sets its bit and is held (R280). -/
theorem pendingInv_holdRxReady {b : Buf} (h : pendingInv s) (hp : s.rxPending.get b = false) :
    pendingInv ({ s with rxPending := s.rxPending.set b true }.hold (.rxReady b)) := by
  intro d
  have hd := h d
  by_cases hdb : d = b
  · subst hdb
    simp only [hp, Bool.toNat_false] at hd
    simp only [State.hold_held, State.hold_notifyBusy, State.hold_curBuf, State.hold_rxPending, Pair.get_set_same,
      List.count_append, List.count_singleton_self, Bool.toNat_true]
    omega
  · simpa [List.count_append, Pair.get_set_ne _ _ _ _ hdb, List.count_singleton, Ne.symm hdb] using hd

/-- Another notification that is held, or acknowledged outside a consumption, is no signal of a buffer. -/
theorem pendingInv_holdOrServe {i : Instr} (hi : ∀ b, i ≠ .rxReady b) (g : GlobalCounters) (h : pendingInv s) :
    pendingInv (if s.notifyBusy then s.hold i else { s with global := g }.ackNotification) := by
  intro d
  have hd := h d
  split
  · simpa [List.count_append, List.count_singleton, hi d] using hd
  · next hb => simpa [Bool.eq_false_of_not_eq_true hb] using hd

theorem pendingInv_rxReady {b : Buf} (h : pendingInv s) (he : execRxReady b s = .next t) : pendingInv t := by
  obtain ⟨-, ⟨⟩⟩ := State.whenAttached_next.1 he
  split
  · split
    · exact h
    · next hp => exact pendingInv_holdRxReady h (by simpa using hp)
  · next hb => exact pendingInv_startConsume b h (by simpa using hb)

/-! ### Attach and the host requests -/

theorem pendingInv_attachWith (s : State) (cfg : Cfg) : pendingInv (s.attachWith cfg) := by
  intro d
  cases d <;> simp [Pair.get]

theorem pendingInv_attach {cfg : Cfg} (h : pendingInv s) (he : execAttach cfg s = .next t) : pendingInv t := by
  unfold execAttach at he
  split at he <;> cases he
  · exact h
  · exact pendingInv_attachWith s cfg

theorem pendingInv_request {c : Nat} {f : Ctx → Work → Work} (h : pendingInv s)
    (he : s.whenAttached (s.whenChan c (.next (s.onRequest c f))) = .next t) : pendingInv t := by
  obtain ⟨-, he⟩ := State.whenAttached_next.1 he
  obtain ⟨-, ⟨⟩⟩ := State.whenChan_next.1 he
  exact pendingInv_onRequest c f h

/-! ### Every operation -/

/-- Only `RX_READY`, the exits of the consumer and `ATTACH` touch the signals of a buffer. -/
theorem exec_keepsPendingInv {i : Instr} (h : pendingInv s) (he : exec i s = .next t) : pendingInv t := by
  cases hi : ringHdr i with
  | some hd =>
    obtain ⟨f, hf⟩ := exec_ringHdr hi
    obtain ⟨-, hb, rfl⟩ := State.packet_next.1 (hf s ▸ he)
    have hsame := sameConsumption_dispatch s hd.ch f
    exact pendingInv_framingCheck _ _ (pendingInv_dispatch hd.ch f h) (hsame.notifyBusy.trans hb)
  | none =>
    cases i with
    | endMark =>
      obtain ⟨-, hb, rfl⟩ := State.whenConsuming_next.1 he
      exact pendingInv_endConsume h hb
    | undersize1 | undersize2 | undersize3 | undersize4 => exact pendingInv_malformed h he
    | requestStatus | abortFlushReset | eflush | modeClearRm | modeClearEpen | modeSetEpen | txFrame =>
      obtain ⟨-, rfl⟩ := State.writeReg_next.1 he
      exact h
    | attach cfg => exact pendingInv_attach h he
    | detach =>
      obtain ⟨-, ⟨⟩⟩ := State.whenAttached_next.1 he
      exact h
    | buson | stop | submit => exact pendingInv_request h he
    | tick =>
      obtain ⟨-, ⟨⟩⟩ := State.whenAttached_next.1 he
      exact pendingInv_tickFrom 0 _ h
    | rxReady b => exact pendingInv_rxReady h he
    | txStatus c =>
      obtain ⟨-, he⟩ := State.whenAttached_next.1 he
      obtain ⟨-, ⟨⟩⟩ := State.whenChan_next.1 he
      exact pendingInv_holdOrServe (by simp) s.global h
    | dmaOverflow b | dmaUnderflow b =>
      obtain ⟨-, ⟨⟩⟩ := State.whenAttached_next.1 he
      exact pendingInv_holdOrServe (by simp) _ h
    | _ => simp [ringHdr] at hi

/-! ### A held notification is taken -/

/-- `execRxReady` outside a consumption drops the held signal it serves: whether the turn has taken it before makes no
difference (log 16). -/
theorem execRxReady_eraseIdx {b : Buf} {k : Nat} (hb : s.notifyBusy = false) (hi : s.held[k]? = some (.rxReady b)) :
    execRxReady b { s with held := s.held.eraseIdx k } = execRxReady b s := by
  obtain ⟨hk, hget⟩ := List.getElem?_eq_some_iff.1 hi
  have hfilter : (s.held.eraseIdx k).filter (fun i => i ≠ .rxReady b) = s.held.filter fun i => i ≠ .rxReady b := by
    conv_rhs => rw [← List.take_append_drop k s.held, List.drop_eq_getElem_cons hk, hget]
    simp [List.eraseIdx_eq_take_drop_succ]
  simp only [execRxReady, State.whenAttached, State.unhold, hb, hfilter]
  rfl

/-- A held notification that is no signal of a buffer can be taken. -/
theorem pendingInv_eraseIdx {i : Instr} {k : Nat} (h : pendingInv s) (hi : s.held[k]? = some i)
    (hne : ∀ b, i ≠ .rxReady b) : pendingInv { s with held := s.held.eraseIdx k } := by
  intro d
  obtain ⟨hk, hget⟩ := List.getElem?_eq_some_iff.1 hi
  have hcount := (List.getElem_cons_eraseIdx_perm hk).count_eq (.rxReady d)
  rw [hget, List.count_cons_of_ne (hne d)] at hcount
  simpa only [hcount] using h d

theorem pendingInv_pending {i : Instr} {k : Nat} (h : pendingInv s) (hb : s.notifyBusy = false)
    (hi : s.held[k]? = some i) (he : exec i { s with held := s.held.eraseIdx k } = .next t) : pendingInv t := by
  by_cases hrx : ∃ b, i = .rxReady b
  · obtain ⟨b, rfl⟩ := hrx
    exact pendingInv_rxReady h ((execRxReady_eraseIdx hb hi).symm.trans he)
  · exact exec_keepsPendingInv (pendingInv_eraseIdx h hi (not_exists.1 hrx)) he

end

theorem pendingInv_keptByStep : KeptByStep pendingInv where
  stream _ _ _ _ h := h
  operation := exec_keepsPendingInv
  pending := pendingInv_pending
  fill h he := by
    obtain ⟨-, -, rfl⟩ := hardwareFill_next.1 he
    exact h
  overrun := pendingInv_malformed

/-- Settles O60: a signal sets the bit as it is held or served, a held one that is served is consumed from then on, and
every exit of the consumption clears the bit. -/
theorem pendingBitsFollowTheSignals : Obligations.PendingBitsFollowTheSignals := fun _ _ =>
  pendingInv_keptByStep.step

end Sys2Proof.Machine
end

section
/-! The length table and its inverse (30_encoding.md R100, R101). -/

namespace Sys2Proof.Machine

theorem len2dlc_dlc2lenFd (d : BitVec 4) : len2dlc (dlc2lenFd d) = some d := by
  revert d; decide

theorem len2dlc_eq_some {n : Nat} {d : BitVec 4} : len2dlc n = some d ↔ dlc2lenFd d = n :=
  ⟨len2dlc_some, fun h => h ▸ len2dlc_dlc2lenFd d⟩

/-- Settles O6: no two codes of the table have the same length, so the search of `LEN2DLC` finds the code. -/
theorem lengthToCodeInvertsTheTable : Obligations.LengthToCodeInvertsTheTable := by
  refine ⟨fun n d => len2dlc_eq_some, len2dlc_isSome, fun n hn => len2dlc_eq_some.2 ?_⟩
  revert n; decide

end Sys2Proof.Machine
end

section
/-! The words of a TX frame (30_encoding.md R118) as values. -/

namespace Sys2Proof

theorem toNat_putField_zero {n : Nat} (v : BitVec n) (hn : n ≤ 32) : (putField v 0).toNat = v.toNat := by
  rw [putField, BitVec.shiftLeft_zero, BitVec.toNat_setWidth_of_le hn]

/-- A flag placed above all the bits of a word of value `k` adds its value, shifted. -/
theorem toNat_or_putBit {w : Word} {k i : Nat} (b : Bool) (hw : w.toNat = k) (hk : k < 2 ^ i) (hi : i < 32) :
    (w ||| putBit b i).toNat = k + 2 ^ i * b.toNat := by
  subst hw
  rw [putBit, toNat_or_putField w _ hk hi, BitVec.toNat_ofBool]

theorem encodeTxWords_length (f : TxWords) : (encodeTxWords f).length = 2 + (f.data.length + 3) / 4 := by
  simp only [encodeTxWords, List.length_cons, packBytes_length, ceil4]
  omega

/-- The first word of a TX frame: the fields of `t0` in rising order (R118). -/
theorem toNat_txWord0 (f : TxWords) :
    (putField f.id 0 ||| putBit f.rtr 29 ||| putBit f.ide 30).toNat =
      f.id.toNat + 2 ^ 29 * f.rtr.toNat + 2 ^ 30 * f.ide.toNat := by
  have hrtr := f.rtr.toNat_lt
  refine toNat_or_putBit _ (toNat_or_putBit _ (toNat_putField_zero _ ?_) ?_ ?_) ?_ ?_ <;> omega

/-- The second word of a TX frame: the fields of `t1` in rising order, `AREQ` = 1 on top (R118). -/
theorem toNat_txWord1 (f : TxWords) :
    (putField f.seq 0 ||| putField f.dlc 8 ||| putBit f.esi 13 ||| putBit f.brs 14 ||| putBit f.fdf 15
        ||| putBit f.sms 16 ||| putBit true 31).toNat =
      f.seq.toNat + 2 ^ 8 * f.dlc.toNat + 2 ^ 13 * f.esi.toNat + 2 ^ 14 * f.brs.toNat + 2 ^ 15 * f.fdf.toNat
        + 2 ^ 16 * f.sms.toNat + 2 ^ 31 := by
  have hseq := toNat_putField_zero f.seq (by decide)
  have hdlc : (putField f.seq 0 ||| putField f.dlc 8).toNat = f.seq.toNat + 2 ^ 8 * f.dlc.toNat := by
    rw [toNat_or_putField _ _ (by omega) (by decide), hseq]
  have hesi := f.esi.toNat_lt
  have hbrs := f.brs.toNat_lt
  have hfdf := f.fdf.toNat_lt
  have hsms := f.sms.toNat_lt
  refine toNat_or_putBit true (toNat_or_putBit _ (toNat_or_putBit _ (toNat_or_putBit _ (toNat_or_putBit _ hdlc
    ?_ ?_) ?_ ?_) ?_ ?_) ?_ ?_) ?_ ?_ <;> omega

end Sys2Proof

namespace Sys2Proof.Machine

/-- The payload of a frame that carries as many bytes as it says: all of them, none for a remote frame (R118). -/
theorem take_frameBytes {f : TxFrame} (hlen : f.data.length = f.len) :
    f.data.take (frameBytes f) = if f.rtr then [] else f.data := by
  cases hrtr : f.rtr
  · simp [frameBytes, hrtr, ← hlen]
  · simp [frameBytes, hrtr]

/-- Settles O7: the fields of `t0` and `t1` lie at disjoint places in rising order, so their values add up. -/
theorem transmitFrameWords : Obligations.TransmitFrameWords := by
  intro f i oneshot dlc hdlc hi hlen
  have hseq : (BitVec.ofNat 8 i).toNat = i := by rw [BitVec.toNat_ofNat]; omega
  have hwords : encodeTx f i oneshot = encodeTxWords
      { id := f.id, rtr := f.rtr, ide := f.ide, seq := BitVec.ofNat 8 i, dlc := dlc, esi := f.esi, brs := f.brs,
        fdf := f.fdf, sms := oneshot, data := if f.rtr then [] else f.data } := by
    rw [encodeTx, hdlc, take_frameBytes hlen, Option.getD_some]
  refine ⟨_, _, hwords, toNat_txWord0 _, ?_, ?_⟩
  · rw [toNat_txWord1, hseq]
  · rw [hwords, encodeTxWords_length, apply_ite List.length, hlen, List.length_nil]

end Sys2Proof.Machine
end

section
/-! Reserved bits (30_encoding.md R105): what the decoder reads of `word0` and `word1`, and what the encoder writes of
them, in terms of the bits that the tables of R92-R97 list. -/

namespace Sys2Proof

/-! ### Words under a mask -/

theorem bitAt_eq_of_agree {v w m : Word} (h : v &&& m = w &&& m) {i : Nat} (hm : bitAt m i = true) :
    bitAt v i = bitAt w i := by
  have hi : bitAt (v &&& m) i = bitAt (w &&& m) i := h ▸ rfl
  simpa only [bitAt, BitVec.getLsbD_and, show m.getLsbD i = true from hm, Bool.and_true] using hi

theorem field_eq_of_agree {v w m : Word} (h : v &&& m = w &&& m) {lo n : Nat} (hm : field m lo n = BitVec.allOnes n) :
    field v lo n = field w lo n := by
  apply BitVec.eq_of_getLsbD_eq
  intro i hi
  have hbit : (field m lo n).getLsbD i = true := by rw [hm, BitVec.getLsbD_allOnes, decide_eq_true hi]
  rw [getLsbD_field, Bool.and_eq_true] at hbit
  rw [getLsbD_field, getLsbD_field]
  exact congrArg _ (bitAt_eq_of_agree h hbit.2)

theorem putField_and_eq_zero {n lo : Nat} (v : BitVec n) {m : Word} (hm : field m lo n = 0) :
    putField v lo &&& m = 0 := by
  apply BitVec.eq_of_getLsbD_eq
  intro i hi
  rw [BitVec.getLsbD_and, getLsbD_putField]
  have hout : ¬ i < lo → i - lo < n → m.getLsbD i = false := by
    intro hlo hn
    have hbit := getLsbD_field m lo n (i - lo)
    rw [hm, Nat.add_sub_cancel' (Nat.not_lt.1 hlo), decide_eq_true hn, Bool.true_and] at hbit
    exact hbit.symm.trans BitVec.getLsbD_zero
  by_cases hlo : i < lo
  · simp [hlo]
  · by_cases hn : i - lo < n
    · simp [hout hlo hn]
    · simp [BitVec.getLsbD_of_ge v _ (Nat.not_lt.1 hn)]

theorem putBit_and_eq_zero (b : Bool) {i : Nat} {m : Word} (hm : field m i 1 = 0) : putBit b i &&& m = 0 :=
  putField_and_eq_zero _ hm

/-! ### Fields of words that agree on the bits of a table -/

theorem decodeData_agree {a a' b b' : Word} (ha : a &&& 0x7FFFFFFF = a' &&& 0x7FFFFFFF)
    (hb : b &&& 0xFE00EF00 = b' &&& 0xFE00EF00) : decodeData a b = decodeData a' b' := by
  funext rest
  simp (disch := decide) only [decodeData, field_eq_of_agree ha, bitAt_eq_of_agree ha, field_eq_of_agree hb,
    bitAt_eq_of_agree hb]

theorem decodeAck_agree {a a' : Word} (ha : a &&& 0x00000FFF = a' &&& 0x00000FFF) : decodeAck a = decodeAck a' := by
  simp (disch := decide) only [decodeAck, field_eq_of_agree ha, bitAt_eq_of_agree ha]

theorem decodeErrorPkt_agree {a a' b b' : Word} (ha : a &&& 0x0021FFFF = a' &&& 0x0021FFFF)
    (hb : b &&& 0xFF800001 = b' &&& 0xFF800001) : decodeErrorPkt a b = decodeErrorPkt a' b' := by
  simp (disch := decide) only [decodeErrorPkt, field_eq_of_agree ha, bitAt_eq_of_agree ha, bitAt_eq_of_agree hb]

theorem decodeStatus_agree {a a' b b' : Word} (ha : a &&& 0x0071FFFF = a' &&& 0x0071FFFF)
    (hb : b &&& 0xFFA000FF = b' &&& 0xFFA000FF) : decodeStatus a b = decodeStatus a' b' := by
  simp (disch := decide) only [decodeStatus, field_eq_of_agree ha, bitAt_eq_of_agree ha, field_eq_of_agree hb,
    bitAt_eq_of_agree hb]

end Sys2Proof

namespace Sys2Proof.Machine

/-! ### The tables -/

/-- The bits of `word0` and `word1` that the table of a `TYPE` lists (R92-R96); all of them for an opaque packet,
which is carried whole (R97). -/
def listedBits (typ : BitVec 4) : Word × Word :=
  match typ.toNat with
  | 0 => (0x7FFFFFFF, 0xFE00EF00)
  | 1 => (0x00000FFF, 0xFE000000)
  | 3 => (0x0021FFFF, 0xFF800001)
  | 4 => (0x00000000, 0xFE0000FF)
  | 8 => (0x0071FFFF, 0xFFA000FF)
  | _ => (BitVec.allOnes 32, BitVec.allOnes 32)

/-- The five types with a table of their own, and the opaque ones. -/
theorem listedBits_cases (typ : BitVec 4) :
    typ = 0 ∨ typ = 1 ∨ typ = 3 ∨ typ = 4 ∨ typ = 8 ∨ listedBits typ = (BitVec.allOnes 32, BitVec.allOnes 32) := by
  revert typ; decide

/-- Every table lists the channel and the `TYPE` (R87, R90). -/
theorem listedBits_header (typ : BitVec 4) :
    field (listedBits typ).2 25 3 = BitVec.allOnes 3 ∧ field (listedBits typ).2 28 4 = BitVec.allOnes 4 := by
  revert typ; decide

theorem reservedBits_header (typ : BitVec 4) :
    field (~~~(listedBits typ).2) 25 3 = 0 ∧ field (~~~(listedBits typ).2) 28 4 = 0 := by
  revert typ; decide

/-! ### What the decoder reads -/

/-- The computed length is that of the packet read (R89). -/
theorem packetLen_eq_ringLen (h : Hdr) (a b : Word) (rest : List Word) :
    packetLen h.size a b = ringLen (decodePacket h a b rest) := by
  unfold decodePacket
  split <;> simp only [packetLen, *] <;> rfl

/-- The fields of a packet are read from the listed bits only (R105). -/
theorem decodePacket_agree {a a' b b' : Word} (ht : field b 28 4 = field b' 28 4)
    (ha : a &&& (listedBits (field b 28 4)).1 = a' &&& (listedBits (field b 28 4)).1)
    (hb : b &&& (listedBits (field b 28 4)).2 = b' &&& (listedBits (field b 28 4)).2) (h : Hdr) (rest : List Word) :
    decodePacket h a b rest = decodePacket h a' b' rest := by
  obtain h0 | h1 | h3 | h4 | h8 | hall := listedBits_cases (field b 28 4)
  · rw [h0] at ha hb
    simp only [decodePacket, ← ht, h0]
    exact congrArg (Instr.data h <| · rest) (decodeData_agree ha hb)
  · rw [h1] at ha
    simp only [decodePacket, ← ht, h1]
    exact congrArg (Instr.ack h) (decodeAck_agree ha)
  · rw [h3] at ha hb
    simp only [decodePacket, ← ht, h3]
    exact congrArg (Instr.error h) (decodeErrorPkt_agree ha hb)
  · rw [h4] at hb
    simp only [decodePacket, ← ht, h4]
    exact congrArg (Instr.eflushAck h) (field_eq_of_agree hb (by decide))
  · rw [h8] at ha hb
    simp only [decodePacket, ← ht, h8]
    exact congrArg (Instr.status h) (decodeStatus_agree ha hb)
  · rw [hall, BitVec.and_allOnes, BitVec.and_allOnes] at ha hb
    rw [ha, hb]

/-- So are its channel and its computed length, and with them every test of the decoder (R131). -/
theorem decodeRing_agree {a a' b b' : Word}
    (ha : a &&& (listedBits (field b 28 4)).1 = a' &&& (listedBits (field b 28 4)).1)
    (hb : b &&& (listedBits (field b 28 4)).2 = b' &&& (listedBits (field b 28 4)).2) (sz : Word) (rest : List Word) :
    decodeRing (sz :: a :: b :: rest) = decodeRing (sz :: a' :: b' :: rest) := by
  obtain ⟨hchan, htype⟩ := listedBits_header (field b 28 4)
  have hch := field_eq_of_agree hb hchan
  have hpkt := decodePacket_agree (field_eq_of_agree hb htype) ha hb
  have hlen (n : Nat) : packetLen n a b = packetLen n a' b' := by
    rw [packetLen_eq_ringLen ⟨n, 0, 0⟩ a b [], packetLen_eq_ringLen ⟨n, 0, 0⟩ a' b' [], hpkt]
  have hwords (n : Nat) : hasWords (sz :: a :: b :: rest) n = hasWords (sz :: a' :: b' :: rest) n := by
    rw [Bool.eq_iff_iff, hasWords_iff, hasWords_iff]
    rfl
  simp only [decodeRing, List.getD_cons_zero, List.getD_cons_succ, List.drop_succ_cons, hch, hlen, hpkt, hwords]

/-! ### What the encoder writes -/

theorem ringWord1_and_reserved (h : Hdr) (typ : BitVec 4) {w1 : Word} (hw : w1 &&& ~~~(listedBits typ).2 = 0) :
    ringWord1 h typ w1 &&& ~~~(listedBits typ).2 = 0 := by
  obtain ⟨hchan, htype⟩ := reservedBits_header typ
  rw [ringWord1, BitVec.and_or_distrib_right, BitVec.and_or_distrib_right, hw, putField_and_eq_zero _ hchan,
    putField_and_eq_zero _ htype]
  rfl

/-- An assembled ring packet has no reserved bit set if the words it is assembled from have none. -/
theorem ringWords_reserved {h : Hdr} {typ : BitVec 4} {w0 w1 sz a b : Word} {pl rest : List Word}
    (he : ringWords h typ w0 w1 pl = sz :: a :: b :: rest) (htype : w1 &&& 0xF0000000 = 0)
    (h0 : w0 &&& ~~~(listedBits typ).1 = 0) (h1 : w1 &&& ~~~(listedBits typ).2 = 0) :
    a &&& ~~~(listedBits (field b 28 4)).1 = 0 ∧ b &&& ~~~(listedBits (field b 28 4)).2 = 0 := by
  obtain ⟨rfl, rfl⟩ : w0 = a ∧ ringWord1 h typ w1 = b := by cases he; exact ⟨rfl, rfl⟩
  have hw1 : field w1 28 4 = 0 := field_eq_of_agree (w := 0) (htype.trans BitVec.zero_and.symm) (by decide)
  rw [type_ringWord1 h typ w1 hw1]
  exact ⟨h0, ringWord1_and_reserved h typ h1⟩

/-- The encoder sets listed bits only, whatever the operation. -/
theorem encode_reserved {i : Instr} {sz a b : Word} {rest : List Word} (he : encode i = .ring (sz :: a :: b :: rest)) :
    a &&& ~~~(listedBits (field b 28 4)).1 = 0 ∧ b &&& ~~~(listedBits (field b 28 4)).2 = 0 := by
  cases i with
  | data h p | ack h p | error h p | eflushAck h p | status h p =>
    refine ringWords_reserved (Fetched.ring.inj he) ?_ ?_ ?_ <;>
      simp (disch := decide) [BitVec.and_or_distrib_right, putField_and_eq_zero, putBit_and_eq_zero]
  | txrq h p | eframeAck h p | ackData h p | unknown7 h p | busLoad h p | unknownA h p | unknownB h p | unknownC h p
  | unknownD h p | unknownE h p | unknownF h p =>
    exact ringWords_reserved (Fetched.ring.inj he) (putField_and_eq_zero _ (by decide)) BitVec.and_zero BitVec.and_zero
  | _ => cases he

/-- Settles O5: both directions hold of every `TYPE` in terms of the bits its table lists. -/
theorem reservedBitsIgnoredAndWrittenZero : Obligations.ReservedBitsIgnoredAndWrittenZero := by
  intro row hrow
  have hlisted : listedBits row.1 = row.2 := by
    simp only [List.mem_cons, List.not_mem_nil, or_false] at hrow
    obtain rfl | rfl | rfl | rfl | rfl := hrow <;> rfl
  rw [← hlisted]
  refine ⟨?_, ?_⟩
  · intro sz a b a' b' rest htype ha hb
    rw [← htype] at ha hb
    exact decodeRing_agree ha hb sz rest
  · intro i sz a b rest he htype
    rw [← htype]
    exact encode_reserved he

end Sys2Proof.Machine
end

section
/-! The outbound words (30_encoding.md R110-R112) as values, and the registers they reach. -/

namespace Sys2Proof

/-- A command word is `SEQ` in bits 23:16 above the command in the low half (R110). -/
theorem putField_or_low (q : Byte) (low : Word) (hlow : low.toNat < 2 ^ 16) :
    putField q 16 ||| low = BitVec.ofNat 32 (q.toNat * 65536 + low.toNat) := by
  apply BitVec.eq_of_toNat_eq
  rw [BitVec.or_comm, toNat_or_putField low q hlow (by decide), BitVec.toNat_ofNat]
  omega

end Sys2Proof

namespace Sys2Proof.Machine

/-- A write of `MODE` whose value is 0 clears the masked bits and keeps the others (R112). -/
theorem modeWrite_zero (mode mask : Word) : modeWrite mode mask 0 = mode &&& ~~~mask := by
  simp [modeWrite]

/-- A write of `MODE` whose value is the mask sets the masked bits and keeps the others (R112). -/
theorem modeWrite_self (mode mask : Word) : modeWrite mode mask mask = mode ||| mask := by
  apply BitVec.eq_of_getLsbD_eq
  intro i hi
  rw [modeWrite, BitVec.getLsbD_or, BitVec.getLsbD_or, BitVec.getLsbD_and, BitVec.getLsbD_and, BitVec.getLsbD_not]
  cases mask.getLsbD i <;> simp [hi]

/-- A register write on a channel with registers replaces these registers and nothing else (R46). -/
theorem State.writeReg_of_get {s : State} {c : Nat} {r : CtlRegs} (f : CtlRegs → CtlRegs) (hr : s.regs[c]? = some r) :
    s.writeReg c f = .next { s with regs := s.regs.set c (f r) } := by
  obtain ⟨hc, hget⟩ := List.getElem?_eq_some_iff.1 hr
  rw [State.writeReg_next.2 ⟨hc, rfl⟩, State.updRegs, List.modify_eq_set_get f hc, List.get_eq_getElem, hget]

/-- Settles O49: each row is one register write; the command words and the `MODE` masks are evaluated. -/
theorem outboundWordsReachTheirRegisters : Obligations.OutboundWordsReachTheirRegisters := by
  intro s c r q f hr
  refine ⟨?_, ?_, ?_, ?_, ?_, ?_, ?_⟩
  · exact putField_or_low q 1 (by decide) ▸ s.writeReg_of_get _ hr
  · exact putField_or_low q 2 (by decide) ▸ s.writeReg_of_get _ hr
  · exact s.writeReg_of_get _ hr
  · exact modeWrite_zero r.mode maskRm ▸ s.writeReg_of_get _ hr
  · exact modeWrite_zero r.mode maskEpen ▸ s.writeReg_of_get _ hr
  · exact modeWrite_self r.mode maskEpen ▸ s.writeReg_of_get _ hr
  · exact s.writeReg_of_get _ hr

end Sys2Proof.Machine
end

section
/-! What the encoder and the decoder make of a ring packet of each `TYPE` (30_encoding.md R90, R97; 40_codec.md R131,
R141-R157): the eleven opaque types by one rule, the other five by one lemma each. -/

namespace Sys2Proof

theorem wfDlcLen_true (d : BitVec 4) : wfDlcLen true d = dlc2lenFd d := by
  revert d; decide

theorem wfDlcLen_false (d : BitVec 4) : wfDlcLen false d = dlc2lenCc d := by
  revert d; decide

theorem TxWords.length_of_wellFormed {f : TxWords} (hf : f.wellFormed = true) : f.data.length = f.payLen := by
  rw [TxWords.wellFormed, Bool.and_eq_true, beq_iff_eq, wfDlcLen_true] at hf
  exact hf.2

/-- R132: the data of a well-formed packet are as many bytes as its `DLC` says (R141). -/
theorem DataPkt.length_of_wellFormed {p : DataPkt} (hp : p.wellFormed = true) : p.data.length = p.payLen := by
  rw [DataPkt.wellFormed, beq_iff_eq] at hp
  rw [hp, DataPkt.payLen, DataPkt.len]
  cases p.fdf
  · rw [wfDlcLen_false]; rfl
  · rw [wfDlcLen_true]; rfl

theorem Hdr.wellFormed_iff {h : Hdr} {len : Nat} : h.wellFormed len = true ↔ h.size = len ∧ len ≤ Config.bufWords := by
  rw [Hdr.wellFormed, Bool.and_eq_true, beq_iff_eq, decide_eq_true_eq]

/-! ### A packet read from its own words -/

theorem decodeData_ringWord1 (h : Hdr) {p : DataPkt} (hp : p.wellFormed = true) (rest : List Word) :
    decodeData (putField p.id 0 ||| putBit p.rtr 29 ||| putBit p.ide 30)
      (ringWord1 h 0 (putField p.dlc 8 ||| putBit p.esi 13 ||| putBit p.brs 14 ||| putBit p.fdf 15))
      (packBytes p.data ++ rest) = p := by
  have hdata : unpackBytes p.payLen (packBytes p.data ++ rest) = p.data :=
    DataPkt.length_of_wellFormed hp ▸ unpackBytes_packBytes p.data rest
  simp (disch := omega) [decodeData, field_ringWord1, bitAt_ringWord1, field_or, bitAt_or, field_putField,
    field_putBit, bitAt_putField, bitAt_putBit, bitAt_putBit_ne]
  exact congrArg (fun d => { p with data := d }) hdata

theorem decodeAck_encoded (p : AckPkt) :
    decodeAck (putField p.seq 0 ||| putBit p.flu 8 ||| putBit p.ct 9 ||| putBit p.abl 10 ||| putBit p.nack 11) = p := by
  simp (disch := omega) [decodeAck, field_or, bitAt_or, field_putField, field_putBit, bitAt_putField, bitAt_putBit,
    bitAt_putBit_ne]

theorem decodeStatus_ringWord1 (h : Hdr) (p : StatusPkt) :
    decodeStatus
      (putField p.txerr 0 ||| putField p.rxerr 8 ||| putBit p.boff 16 ||| putBit p.idet 20 ||| putBit p.irm 21
        ||| putBit p.rmcd 22)
      (ringWord1 h 8 (putField p.seq 0 ||| putBit p.aut 21 ||| putBit p.ewlr 23 ||| putBit p.eplr 24)) = p := by
  simp (disch := omega) [decodeStatus, field_ringWord1, bitAt_ringWord1, field_or, bitAt_or, field_putField,
    field_putField_disjoint, field_putBit, bitAt_putField, bitAt_putBit, bitAt_putBit_ne]

theorem decodeErrorPkt_ringWord1 (h : Hdr) (p : ErrorPkt) :
    decodeErrorPkt (putField p.txerr 0 ||| putField p.rxerr 8 ||| putBit p.boff 16 ||| putBit p.irm 21)
      (ringWord1 h 3 (putBit p.dirTx 0 ||| putBit p.ewlr 23 ||| putBit p.eplr 24)) = p := by
  simp (disch := omega) [decodeErrorPkt, bitAt_ringWord1, field_or, bitAt_or, field_putField,
    field_putField_disjoint, field_putBit, bitAt_putField, bitAt_putBit, bitAt_putBit_ne]

theorem decodeOpaque_ringWord1 (h : Hdr) (typ : BitVec 4) {p : OpaquePkt} {size : Nat} (hs : size = p.encLen)
    (rest : List Word) :
    decodeOpaque size p.word0 (ringWord1 h typ (putField p.word1lo 0)) (p.extra ++ rest) = p := by
  have hlo : field (ringWord1 h typ (putField p.word1lo 0)) 0 25 = p.word1lo := by
    rw [field_ringWord1 _ _ _ _ _ (by decide), field_putField _ _ (by decide)]
  have hextra : (p.extra ++ rest).take (size - 5) = p.extra := by
    rw [hs, OpaquePkt.encLen, Nat.add_sub_cancel_left, List.take_left]
  rw [decodeOpaque, hlo, hextra]

end Sys2Proof

namespace Sys2Proof.Machine

/-! ### The opaque types -/

/-- `typ` is the code of a type that is carried opaquely (R97), and `mk` the operation of its packets: what the codec and
the lengths of R89 say of it. -/
structure OpaqueType (typ : BitVec 4) (mk : Hdr → OpaquePkt → Instr) : Prop where
  decode {b : Word} (ht : field b 28 4 = typ) (h : Hdr) (a : Word) (rest : List Word) :
    decodePacket h a b rest = mk h (decodeOpaque h.size a b rest)
  encode (h : Hdr) (p : OpaquePkt) : encode (mk h p) = .ring (encodeOpaque h typ p)
  wellFormed (h : Hdr) (p : OpaquePkt) : (mk h p).wellFormed = h.wellFormed p.encLen
  ringLen (h : Hdr) (p : OpaquePkt) : ringLen (mk h p) = h.size
  padding (ws : List Word) (h : Hdr) (p : OpaquePkt) : paddingBytes ws (mk h p) = []
  listed : listedBits typ = (BitVec.allOnes 32, BitVec.allOnes 32)
  reserved (h : Hdr) (p : OpaquePkt) : reservedMasks (mk h p) = (0, 0)

/-- The opaque types (R90, R97). -/
def opaqueTypes : List (BitVec 4 × (Hdr → OpaquePkt → Instr)) :=
  [(2, .txrq), (5, .eframeAck), (6, .ackData), (7, .unknown7), (9, .busLoad), (10, .unknownA), (11, .unknownB),
    (12, .unknownC), (13, .unknownD), (14, .unknownE), (15, .unknownF)]

theorem opaqueType_of_mem {typ : BitVec 4} {mk : Hdr → OpaquePkt → Instr} (h : (typ, mk) ∈ opaqueTypes) :
    OpaqueType typ mk := by
  simp only [opaqueTypes, List.mem_cons, Prod.mk.injEq, List.not_mem_nil, or_false] at h
  rcases h with ⟨rfl, rfl⟩ | ⟨rfl, rfl⟩ | ⟨rfl, rfl⟩ | ⟨rfl, rfl⟩ | ⟨rfl, rfl⟩ | ⟨rfl, rfl⟩ | ⟨rfl, rfl⟩ | ⟨rfl, rfl⟩ |
    ⟨rfl, rfl⟩ | ⟨rfl, rfl⟩ | ⟨rfl, rfl⟩ <;>
  exact
    { decode := fun ht h a rest => by rw [decodePacket, ht]; rfl
      encode := fun _ _ => rfl
      wellFormed := fun _ _ => rfl
      ringLen := fun _ _ => rfl
      padding := fun _ _ _ => rfl
      listed := rfl
      reserved := fun _ _ => rfl }

theorem opaqueType_of_code {typ : BitVec 4} (h : typ ∈ opaqueTypes.map Prod.fst) : ∃ mk, OpaqueType typ mk := by
  obtain ⟨⟨_, mk⟩, hmem, rfl⟩ := List.mem_map.1 h
  exact ⟨mk, opaqueType_of_mem hmem⟩

theorem opaqueType_of_operation {mk : Hdr → OpaquePkt → Instr} (h : mk ∈ opaqueTypes.map Prod.snd) :
    ∃ typ, OpaqueType typ mk := by
  obtain ⟨⟨typ, _⟩, hmem, rfl⟩ := List.mem_map.1 h
  exact ⟨typ, opaqueType_of_mem hmem⟩

/-- A `TYPE` code has a table of its own or is opaque (R90). -/
theorem type_cases (typ : BitVec 4) :
    typ = 0 ∨ typ = 1 ∨ typ = 3 ∨ typ = 4 ∨ typ = 8 ∨ ∃ mk, OpaqueType typ mk := by
  have hcode : typ = 0 ∨ typ = 1 ∨ typ = 3 ∨ typ = 4 ∨ typ = 8 ∨ typ ∈ opaqueTypes.map Prod.fst := by
    simp only [opaqueTypes, List.map_cons, List.map_nil]
    revert typ; decide
  exact hcode.imp_right (.imp_right (.imp_right (.imp_right (.imp_right opaqueType_of_code))))

/-- The ring packets with header `h`: the five types with a table of their own, and the opaque ones. -/
inductive RingPacket (h : Hdr) : Instr → Prop
  | data (p : DataPkt) : RingPacket h (.data h p)
  | ack (p : AckPkt) : RingPacket h (.ack h p)
  | status (p : StatusPkt) : RingPacket h (.status h p)
  | error (p : ErrorPkt) : RingPacket h (.error h p)
  | eflushAck (q : Byte) : RingPacket h (.eflushAck h q)
  | carried {typ : BitVec 4} {mk : Hdr → OpaquePkt → Instr} (ht : OpaqueType typ mk) (p : OpaquePkt) :
      RingPacket h (mk h p)

theorem ringPacket_carried : ∀ mk ∈ opaqueTypes.map Prod.snd, ∀ h p, RingPacket h (mk h p) := by
  intro mk hmem h p
  obtain ⟨typ, ht⟩ := opaqueType_of_operation hmem
  exact .carried ht p

theorem ringPacket_of_ringHdr {i : Instr} {h : Hdr} (hi : ringHdr i = some h) : RingPacket h i := by
  have hcarried := ringPacket_carried
  simp only [opaqueTypes, List.map_cons, List.map_nil, List.forall_mem_cons] at hcarried
  cases i <;> simp only [ringHdr, Option.some.injEq, reduceCtorEq] at hi <;> subst hi
  case data p => exact .data p
  case ack p => exact .ack p
  case status p => exact .status p
  case error p => exact .error p
  case eflushAck q => exact .eflushAck q
  all_goals simp only [hcarried]

/-! ### The decoder by `TYPE` -/

section
variable {b : Word} (h : Hdr) (a : Word) (rest : List Word)

theorem decodePacket_data (ht : field b 28 4 = 0) : decodePacket h a b rest = .data h (decodeData a b rest) := by
  rw [decodePacket, ht]; rfl

theorem decodePacket_ack (ht : field b 28 4 = 1) : decodePacket h a b rest = .ack h (decodeAck a) := by
  rw [decodePacket, ht]; rfl

theorem decodePacket_error (ht : field b 28 4 = 3) : decodePacket h a b rest = .error h (decodeErrorPkt a b) := by
  rw [decodePacket, ht]; rfl

theorem decodePacket_eflushAck (ht : field b 28 4 = 4) : decodePacket h a b rest = .eflushAck h (field b 0 8) := by
  rw [decodePacket, ht]; rfl

theorem decodePacket_status (ht : field b 28 4 = 8) : decodePacket h a b rest = .status h (decodeStatus a b) := by
  rw [decodePacket, ht]; rfl

end

/-- The types with a table of their own (R92-R96), whose computed length does not depend on the declared size (R89). -/
def tabledTypes : List (BitVec 4) := [0, 1, 3, 4, 8]

theorem packetLen_of_tabled {b : Word} (ht : field b 28 4 ∈ tabledTypes) (n m : Nat) (a : Word) :
    packetLen n a b = packetLen m a b := by
  simp only [tabledTypes, List.mem_cons, List.not_mem_nil, or_false] at ht
  rcases ht with ht | ht | ht | ht | ht <;> rw [packetLen, packetLen, ht] <;> rfl

theorem decodePacket_of_tabled {b : Word} (ht : field b 28 4 ∈ tabledTypes) (h : Hdr) (n : Nat) (a : Word)
    (rest : List Word) : decodePacket { h with size := n } a b rest = withSize n (decodePacket h a b rest) := by
  simp only [tabledTypes, List.mem_cons, List.not_mem_nil, or_false] at ht
  rcases ht with ht | ht | ht | ht | ht
  · rw [decodePacket_data _ _ _ ht, decodePacket_data _ _ _ ht, withSize]
  · rw [decodePacket_ack _ _ _ ht, decodePacket_ack _ _ _ ht, withSize]
  · rw [decodePacket_error _ _ _ ht, decodePacket_error _ _ _ ht, withSize]
  · rw [decodePacket_eflushAck _ _ _ ht, decodePacket_eflushAck _ _ _ ht, withSize]
  · rw [decodePacket_status _ _ _ ht, decodePacket_status _ _ _ ht, withSize]

/-! ### The words of a packet -/

/-- The operation `i` is encoded as the ring packet with `TYPE` `typ` and these words (R151), and, if it is a packet value
that `ENCODE` takes, it declares and computes (R89) their number and is read back from them. -/
structure Assembled (i : Instr) (h : Hdr) (typ : BitVec 4) (w0 w1 : Word) (pl : List Word) : Prop where
  words : encode i = .ring (ringWords h typ w0 w1 pl)
  chan : field w1 25 3 = 0
  type : field w1 28 4 = 0
  size : i.wellFormed = true → h.wellFormed (5 + pl.length) = true
  computed : i.wellFormed = true → ringLen i = 5 + pl.length
  back : i.wellFormed = true → ∀ rest, decodePacket h w0 (ringWord1 h typ w1) (pl ++ rest) = i

theorem assembled_data (h : Hdr) (p : DataPkt) : ∃ w0 w1, Assembled (.data h p) h 0 w0 w1 (packBytes p.data) := by
  have hparts (hwf : (Instr.data h p).wellFormed = true) : h.wellFormed p.encLen = true ∧ p.wellFormed = true :=
    (Bool.and_eq_true _ _).mp hwf
  have htype : field (putField p.dlc 8 ||| putBit p.esi 13 ||| putBit p.brs 14 ||| putBit p.fdf 15) 28 4 = 0 := by
    simp (disch := omega) [field_or, field_putField_disjoint, field_putBit]
  refine ⟨_, _, rfl, ?_, htype, fun hwf => ?_, fun hwf => ?_, fun hwf rest => ?_⟩
  · simp (disch := omega) [field_or, field_putField_disjoint, field_putBit]
  · rw [packBytes_length]; exact (hparts hwf).1
  · rw [packBytes_length, DataPkt.length_of_wellFormed (hparts hwf).2]; rfl
  · rw [decodePacket_data _ _ _ (type_ringWord1 h 0 _ htype), decodeData_ringWord1 h (hparts hwf).2]

theorem assembled_ack (h : Hdr) (p : AckPkt) : ∃ w0 w1, Assembled (.ack h p) h 1 w0 w1 [] := by
  refine ⟨_, 0, rfl, field_zero .., field_zero .., id, fun _ => rfl, fun _ rest => ?_⟩
  rw [decodePacket_ack _ _ _ (type_ringWord1 h 1 0 (field_zero ..)), decodeAck_encoded]

theorem assembled_status (h : Hdr) (p : StatusPkt) : ∃ w0 w1, Assembled (.status h p) h 8 w0 w1 [] := by
  have htype : field (putField p.seq 0 ||| putBit p.aut 21 ||| putBit p.ewlr 23 ||| putBit p.eplr 24) 28 4 = 0 := by
    simp (disch := omega) [field_or, field_putField_disjoint, field_putBit]
  refine ⟨_, _, rfl, ?_, htype, id, fun _ => rfl, fun _ rest => ?_⟩
  · simp (disch := omega) [field_or, field_putField_disjoint, field_putBit]
  · rw [decodePacket_status _ _ _ (type_ringWord1 h 8 _ htype), decodeStatus_ringWord1]

theorem assembled_error (h : Hdr) (p : ErrorPkt) : ∃ w0 w1, Assembled (.error h p) h 3 w0 w1 [] := by
  have htype : field (putBit p.dirTx 0 ||| putBit p.ewlr 23 ||| putBit p.eplr 24) 28 4 = 0 := by
    simp (disch := omega) [field_or, field_putBit]
  refine ⟨_, _, rfl, ?_, htype, id, fun _ => rfl, fun _ rest => ?_⟩
  · simp (disch := omega) [field_or, field_putBit]
  · rw [decodePacket_error _ _ _ (type_ringWord1 h 3 _ htype), decodeErrorPkt_ringWord1]

theorem assembled_eflushAck (h : Hdr) (q : Byte) : ∃ w0 w1, Assembled (.eflushAck h q) h 4 w0 w1 [] := by
  have htype : field (putField q 0) 28 4 = 0 := field_putField_disjoint _ _ _ (by decide)
  refine ⟨0, _, rfl, field_putField_disjoint _ _ _ (by decide), htype, id, fun _ => rfl, fun _ rest => ?_⟩
  rw [decodePacket_eflushAck _ _ _ (type_ringWord1 h 4 _ htype), field_ringWord1 _ _ _ _ _ (by decide),
    field_putField _ _ (by decide)]

theorem assembled_carried {typ : BitVec 4} {mk : Hdr → OpaquePkt → Instr} (ht : OpaqueType typ mk) (h : Hdr)
    (p : OpaquePkt) : ∃ w0 w1, Assembled (mk h p) h typ w0 w1 p.extra := by
  have htype : field (putField p.word1lo 0) 28 4 = 0 := field_putField_disjoint _ _ _ (by decide)
  have hsize (hwf : (mk h p).wellFormed = true) : h.size = p.encLen :=
    (Hdr.wellFormed_iff.1 (ht.wellFormed h p ▸ hwf)).1
  refine ⟨_, _, ht.encode h p, field_putField_disjoint _ _ _ (by decide), htype, fun hwf => ht.wellFormed h p ▸ hwf,
    fun hwf => (ht.ringLen h p).trans (hsize hwf), fun hwf rest => ?_⟩
  rw [ht.decode (type_ringWord1 h typ _ htype), decodeOpaque_ringWord1 h typ (hsize hwf)]

theorem RingPacket.assembled {i : Instr} {h : Hdr} (hi : RingPacket h i) :
    ∃ typ pl w0 w1, Assembled i h typ w0 w1 pl := by
  cases hi with
  | data p => exact ⟨_, _, assembled_data h p⟩
  | ack p => exact ⟨_, _, assembled_ack h p⟩
  | status p => exact ⟨_, _, assembled_status h p⟩
  | error p => exact ⟨_, _, assembled_error h p⟩
  | eflushAck q => exact ⟨_, _, assembled_eflushAck h q⟩
  | carried ht p => exact ⟨_, _, assembled_carried ht h p⟩

section
variable {i : Instr} {h : Hdr} {typ : BitVec 4} {w0 w1 : Word} {pl : List Word}

/-- The decoder computes the length of a well-formed packet from its words. -/
theorem Assembled.packetLen_eq (ha : Assembled i h typ w0 w1 pl) (hwf : i.wellFormed = true) :
    packetLen h.size w0 (ringWord1 h typ w1) = 5 + pl.length := by
  rw [packetLen_eq_ringLen h _ _ (pl ++ []), ha.back hwf, ha.computed hwf]

theorem Assembled.decodeRing_eq (ha : Assembled i h typ w0 w1 pl) (hwf : i.wellFormed = true) (rest : List Word) :
    decodeRing (ringWords h typ w0 w1 pl ++ rest) = .ok i := by
  obtain ⟨hsize, hbuf⟩ := Hdr.wellFormed_iff.1 (ha.size hwf)
  rw [decodeRing_ringWords h typ w0 w1 pl rest hsize (hsize ▸ hbuf) ha.chan (ha.packetLen_eq hwf).le, ha.back hwf]

/-- Under another declared size the packet of a tabled type is read with that size and is otherwise the same. -/
theorem Assembled.decodeRing_declaredAs (ha : Assembled i h typ w0 w1 pl) (hwf : i.wellFormed = true)
    (ht : typ ∈ tabledTypes) (rest : List Word) {n : Nat} (hlow : 5 ≤ n) (hbuf : n ≤ 1024)
    (hfit : n ≤ 5 + (pl ++ rest).length) :
    decodeRing (declaredAs n (ringWords h typ w0 w1 pl) ++ rest) = .ok (withSize n i) := by
  have htabled : field (ringWord1 h typ w1) 28 4 ∈ tabledTypes := (type_ringWord1 h typ w1 ha.type).symm ▸ ht
  have hlen : packetLen n w0 (ringWord1 h typ w1) ≤ 5 + (pl ++ rest).length := by
    rw [packetLen_of_tabled htabled n h.size, ha.packetLen_eq hwf, List.length_append]; omega
  have hdecode := decodeRing_sized h typ w0 w1 (pl ++ rest) hlow hbuf hfit ha.chan hlen
  rw [decodePacket_of_tabled htabled, ha.back hwf] at hdecode
  exact hdecode

end

/-- Settles O57: the encoder writes the number of the words; a well-formed packet declares and computes that number. -/
theorem encodedPacketDeclaresItsLength : Obligations.EncodedPacketDeclaresItsLength := by
  intro i h ws hi he
  obtain ⟨typ, pl, w0, w1, ha⟩ := (ringPacket_of_ringHdr hi).assembled
  obtain rfl : ringWords h typ w0 w1 pl = ws := Fetched.ring.inj (ha.words.symm.trans he)
  rw [ringWords_length]
  refine ⟨rfl, fun hwf => ?_⟩
  obtain ⟨hsize, hbuf⟩ := Hdr.wellFormed_iff.1 (ha.size hwf)
  exact ⟨(ha.computed hwf).symm, hsize.symm, hbuf⟩

/-- Settles O58: the decoder of a tabled type reads the declared size into the header only, and `n` words are there. -/
theorem misdeclaredSizeDecodesAsDeclared : Obligations.MisdeclaredSizeDecodesAsDeclared := by
  intro i h ws rest n hwf he hi hlow hbuf hfit
  have htabled : ∃ typ ∈ tabledTypes, ∃ pl w0 w1, Assembled i h typ w0 w1 pl := by
    rcases hi with ⟨p, rfl⟩ | ⟨p, rfl⟩ | ⟨p, rfl⟩ | ⟨p, rfl⟩ | ⟨q, rfl⟩
    · exact ⟨0, by decide, _, assembled_data h p⟩
    · exact ⟨1, by decide, _, assembled_ack h p⟩
    · exact ⟨8, by decide, _, assembled_status h p⟩
    · exact ⟨3, by decide, _, assembled_error h p⟩
    · exact ⟨4, by decide, _, assembled_eflushAck h q⟩
  obtain ⟨typ, ht, pl, w0, w1, ha⟩ := htabled
  obtain rfl : ringWords h typ w0 w1 pl = ws := Fetched.ring.inj (ha.words.symm.trans he)
  refine ha.decodeRing_declaredAs hwf ht rest hlow hbuf (hfit.trans_eq ?_)
  rw [ringWords_length, List.length_append, Nat.add_assoc]

/-! ### Every operation -/

theorem decodeReg_encodeCmd (c : Nat) (q : Byte) :
    decodeReg (.cmd c (encodeCmd q .requestStatus)) = .ok (.requestStatus c q) ∧
      decodeReg (.cmd c (encodeCmd q .abortFlushReset)) = .ok (.abortFlushReset c q) := by
  have hne : encodeCmd q .abortFlushReset ≠ encodeCmd q .requestStatus := fun he => by
    have hbit := congrArg (bitAt · 0) he
    simp (disch := omega) [encodeCmd, bitAt_or, bitAt_putField] at hbit
    revert hbit; decide
  simp only [decodeReg, encodeCmd_seq, if_true, if_neg hne, and_self]

/-- Settles O3: a ring packet is read back from its words, a TX frame from its own, and each other operation is found by
the code, register or value of its item. -/
theorem encodedOperationDecodesBack : Obligations.EncodedOperationDecodesBack := by
  intro i rest hwf
  cases hi : ringHdr i with
  | some h =>
    obtain ⟨typ, pl, w0, w1, ha⟩ := (ringPacket_of_ringHdr hi).assembled
    rw [ha.words]
    exact ha.decodeRing_eq hwf rest
  | none =>
    cases i with
    | requestStatus c q => exact (decodeReg_encodeCmd c q).1
    | abortFlushReset c q => exact (decodeReg_encodeCmd c q).2
    | txFrame c f =>
      have hframe := encodeTxWords_decodes (TxWords.length_of_wellFormed ((Bool.and_eq_true _ _).mp hwf).2)
      simp only [encode, Fetched.followedBy, decode, decodeReg, hframe]
    | rxReady b | dmaOverflow b | dmaUnderflow b => cases b <;> rfl
    | endMark | undersize1 | undersize2 | undersize3 | undersize4 => rfl
    | eflush c | modeClearRm c | modeClearEpen c | modeSetEpen c => rfl
    | attach cfg | detach | buson c | stop c | submit c f hwPre hwPost | tick | txStatus c => rfl
    | _ => cases hi

end Sys2Proof.Machine
end

section
/-! A packet in a DMA buffer (20_memory.md R61, 40_codec.md R159): the words written there are the words read, and the
decoder reads the packet back from them. -/

namespace Sys2Proof.Machine

/-- Memory that holds the bytes of words from `x` on reads as these words (R61). -/
theorem readWords_of_bytes {m : List Host.Cell} {x : Nat} {ws : List Word}
    (hm : ∀ j < 4 * ws.length, readByte m (x + j) = (bytesOfWords ws).getD j 0) : readWords m x ws.length = ws := by
  induction ws generalizing x with
  | nil => rfl
  | cons w t ih =>
    rw [List.length_cons] at hm
    have hw : readWord m x = w := by
      have h0 : readByte m x = field w 0 8 := hm 0 (by omega)
      have h1 : readByte m (x + 1) = field w 8 8 := hm 1 (by omega)
      have h2 : readByte m (x + 2) = field w 16 8 := hm 2 (by omega)
      have h3 : readByte m (x + 3) = field w 24 8 := hm 3 (by omega)
      rw [readWord, h0, h1, h2, h3, wordOfBytes_fields]
    have ht : readWords m (x + 4) t.length = t := ih fun j hj => by
      rw [Nat.add_assoc, Nat.add_comm 4 j]
      exact hm (j + 4) (by omega)
    rw [List.length_cons, readWords, hw, ht]

/-- Words written into a buffer where they fit are the first that `DECODE` reads there (R131). -/
theorem bufWordsFrom_writeBytes {m : List Host.Cell} (hm : memWf m) (b : Buf) {pos : Nat} {ws : List Word}
    (hfit : pos + ws.length ≤ Config.bufWords) :
    ∃ rest, bufWordsFrom (writeBytes m (bufBase b + 4 * pos) (bytesOfWords ws)) b pos = ws ++ rest := by
  have hin : bufBase b + 4 * pos + (bytesOfWords ws).length ≤ memSize := by
    rw [Nat.add_assoc, bytesOfWords_length]
    exact bufBase_add_le_memSize b (by simp only [Config.bufBytes, Config.bufWords] at *; omega)
  have hwords : readWords (writeBytes m (bufBase b + 4 * pos) (bytesOfWords ws)) (bufBase b + 4 * pos) ws.length = ws :=
    readWords_of_bytes fun j hj => by
      have hj' : j < (bytesOfWords ws).length := (bytesOfWords_length ws).symm ▸ hj
      rw [readByte_writeBytes_inside hm _ j hj' hin, List.getD_eq_getElem _ _ hj']
  obtain ⟨k, hk⟩ : ∃ k, Config.bufWords - pos = ws.length + k := ⟨Config.bufWords - pos - ws.length, by omega⟩
  exact ⟨_, by rw [bufWordsFrom, hk, readWords_append, hwords]⟩

/-- Settles O4: the words written at the index are read there, and the item decodes from them whatever follows (O3). -/
theorem packetRoundTripInBuffer : Obligations.PacketRoundTripInBuffer := by
  intro m b pos i ws hm hwf he hfit
  obtain ⟨rest, hread⟩ := bufWordsFrom_writeBytes hm b hfit
  have hdecode := encodedOperationDecodesBack i rest hwf
  rw [he] at hdecode
  rw [hread]
  exact hdecode

end Sys2Proof.Machine
end

section
/-! Encoding a decoded packet (40_codec.md R159): the words come back but for the reserved bits, the declared size and the
padding. -/

namespace Sys2Proof

/-! ### Words put together from their fields -/

theorem putField_field {n : Nat} (w : Word) (lo : Nat) :
    putField (field w lo n) lo = w &&& putField (BitVec.allOnes n) lo := by
  apply BitVec.eq_of_getLsbD_eq
  intro i hi
  rw [BitVec.getLsbD_and, getLsbD_putField, getLsbD_putField, getLsbD_field, BitVec.getLsbD_allOnes]
  by_cases hlo : i < lo
  · simp [hlo]
  · rw [Nat.add_sub_cancel' (Nat.not_lt.1 hlo), Bool.and_comm _ (w.getLsbD i)]
    ac_rfl

theorem putBit_bitAt (w : Word) (i : Nat) : putBit (bitAt w i) i = w &&& putBit true i := by
  have hbit : BitVec.ofBool (bitAt w i) = field w i 1 := by
    apply BitVec.eq_of_getLsbD_eq
    intro j hj
    obtain rfl : j = 0 := by omega
    rw [getLsbD_field]
    simp [bitAt]
  rw [putBit, hbit, putField_field]
  rfl

theorem and_eq_self_iff (w m : Word) : w &&& m = w ↔ w &&& ~~~m = 0 := by
  have hsplit : w &&& m ||| w &&& ~~~m = w := by
    rw [← BitVec.and_or_distrib_left, BitVec.or_not_self, BitVec.and_allOnes]
  constructor
  · intro h
    rw [← h, BitVec.and_assoc, BitVec.and_not_self]
    exact BitVec.and_zero
  · intro h
    rw [h] at hsplit
    exact BitVec.or_zero.symm.trans hsplit

/-- The channel and the `TYPE` that a packet was read with complete its `word1`. -/
theorem ringWord1_masked {h : Hdr} {typ : BitVec 4} {b : Word} (hch : field b 25 3 = h.ch) (ht : field b 28 4 = typ)
    (m : Word) : ringWord1 h typ (b &&& m) = b &&& (m ||| 0xFE000000) := by
  rw [ringWord1, ← hch, ← ht, putField_field, putField_field, ← BitVec.and_or_distrib_left,
    ← BitVec.and_or_distrib_left, BitVec.or_assoc]
  rfl

/-! ### Packets encoded again -/

theorem encodeData_decodeData (h : Hdr) (a b : Word) (rest : List Word) :
    encodeData h (decodeData a b rest) = ringWords h 0 (a &&& 0x7FFFFFFF) (b &&& 0x0000EF00)
      (packBytes (decodeData a b rest).data) := by
  simp only [encodeData, decodeData, putField_field, putBit_bitAt, ← BitVec.and_or_distrib_left]
  rfl

theorem encodeAck_decodeAck (h : Hdr) (a b : Word) :
    encodeAck h (decodeAck a) = ringWords h 1 (a &&& 0x00000FFF) (b &&& 0) [] := by
  simp only [encodeAck, decodeAck, putField_field, putBit_bitAt, ← BitVec.and_or_distrib_left]
  rw [show b &&& 0 = 0 from BitVec.and_zero]
  rfl

theorem encodeStatus_decodeStatus (h : Hdr) (a b : Word) :
    encodeStatus h (decodeStatus a b) = ringWords h 8 (a &&& 0x0071FFFF) (b &&& 0x01A000FF) [] := by
  simp only [encodeStatus, decodeStatus, putField_field, putBit_bitAt, ← BitVec.and_or_distrib_left]
  rfl

theorem encodeErrorPkt_decodeErrorPkt (h : Hdr) (a b : Word) :
    encodeErrorPkt h (decodeErrorPkt a b) = ringWords h 3 (a &&& 0x0021FFFF) (b &&& 0x01800001) [] := by
  simp only [encodeErrorPkt, decodeErrorPkt, putField_field, putBit_bitAt, ← BitVec.and_or_distrib_left]
  rfl

theorem encodeEflushAck_field (h : Hdr) (a b : Word) :
    encodeEflushAck h (field b 0 8) = ringWords h 4 (a &&& 0) (b &&& 0x000000FF) [] := by
  rw [encodeEflushAck, putField_field, show a &&& 0 = 0 from BitVec.and_zero]
  rfl

theorem encodeOpaque_decodeOpaque (h : Hdr) (typ : BitVec 4) (a b : Word) (rest : List Word) :
    encodeOpaque h typ (decodeOpaque h.size a b rest) =
      ringWords h typ (a &&& BitVec.allOnes 32) (b &&& 0x01FFFFFF) (rest.take (h.size - 5)) := by
  rw [encodeOpaque, decodeOpaque, putField_field, BitVec.and_allOnes]
  rfl

end Sys2Proof

namespace Sys2Proof.Machine

/-- The words after the fifth of a packet's encoding. -/
def payloadWords (i : Instr) : List Word :=
  match encode i with
  | .ring ws => ws.drop 5
  | _ => []

theorem payloadWords_of_encode {i : Instr} {h : Hdr} {typ : BitVec 4} {w0 w1 : Word} {pl : List Word}
    (he : encode i = .ring (ringWords h typ w0 w1 pl)) : payloadWords i = pl := by
  rw [payloadWords, he]; rfl

/-- The words that `ENCODE` gives for a packet with header `h` read from `word0` = `a` and `word1` = `b`: the listed bits
of both, the timestamp and the payload words `pl`, under their number. -/
def canonicalWords (h : Hdr) (a b : Word) (pl : List Word) : List Word :=
  BitVec.ofNat 32 (5 + pl.length) :: (a &&& (listedBits (field b 28 4)).1) :: (b &&& (listedBits (field b 28 4)).2)
    :: h.ts.extractLsb' 0 32 :: h.ts.extractLsb' 32 32 :: pl

theorem encode_of_masked {i : Instr} {h : Hdr} {typ : BitVec 4} {a b m0 m1 : Word} {pl : List Word}
    (he : encode i = .ring (ringWords h typ (a &&& m0) (b &&& m1) pl)) (hch : field b 25 3 = h.ch)
    (ht : field b 28 4 = typ) (hl : listedBits typ = (m0, m1 ||| 0xFE000000)) :
    encode i = .ring (canonicalWords h a b (payloadWords i)) := by
  rw [payloadWords_of_encode he, he, canonicalWords, ht, hl, ← ringWord1_masked hch ht]
  rfl

/-- Encoding a decoded packet keeps the listed bits of its words. -/
theorem encode_decodePacket {h : Hdr} {b : Word} (hch : field b 25 3 = h.ch) (a : Word) (rest : List Word) :
    encode (decodePacket h a b rest) = .ring (canonicalWords h a b (payloadWords (decodePacket h a b rest))) := by
  obtain ht | ht | ht | ht | ht | ⟨mk, hop⟩ := type_cases (field b 28 4)
  · rw [decodePacket_data h a rest ht]
    exact encode_of_masked (congrArg Fetched.ring (encodeData_decodeData h a b rest)) hch ht rfl
  · rw [decodePacket_ack h a rest ht]
    exact encode_of_masked (congrArg Fetched.ring (encodeAck_decodeAck h a b)) hch ht rfl
  · rw [decodePacket_error h a rest ht]
    exact encode_of_masked (congrArg Fetched.ring (encodeErrorPkt_decodeErrorPkt h a b)) hch ht rfl
  · rw [decodePacket_eflushAck h a rest ht]
    exact encode_of_masked (congrArg Fetched.ring (encodeEflushAck_field h a b)) hch ht rfl
  · rw [decodePacket_status h a rest ht]
    exact encode_of_masked (congrArg Fetched.ring (encodeStatus_decodeStatus h a b)) hch ht rfl
  · rw [hop.decode rfl]
    have hwords := (hop.encode h _).trans (congrArg Fetched.ring (encodeOpaque_decodeOpaque h _ a b rest))
    exact encode_of_masked hwords hch rfl (hop.listed.trans rfl)

theorem reservedMasks_decodePacket (h : Hdr) (a b : Word) (rest : List Word) :
    reservedMasks (decodePacket h a b rest) =
      (~~~(listedBits (field b 28 4)).1, ~~~(listedBits (field b 28 4)).2) := by
  obtain ht | ht | ht | ht | ht | ⟨mk, hop⟩ := type_cases (field b 28 4)
  · rw [decodePacket_data h a rest ht, ht]; rfl
  · rw [decodePacket_ack h a rest ht, ht]; rfl
  · rw [decodePacket_error h a rest ht, ht]; rfl
  · rw [decodePacket_eflushAck h a rest ht, ht]; rfl
  · rw [decodePacket_status h a rest ht, ht]; rfl
  · rw [hop.decode rfl, hop.reserved, hop.listed]; rfl

/-! ### Payloads encoded again -/

theorem bytesOfWords_injective : Function.Injective bytesOfWords := by
  intro v w h
  induction v generalizing w with
  | nil => cases w with
    | nil => rfl
    | cons _ _ => cases h
  | cons x v ih => cases w with
    | nil => cases h
    | cons y w =>
      simp only [bytesOfWords, List.flatMap_cons, wordBytes, List.cons_append, List.nil_append, List.cons.injEq] at h
      obtain ⟨h0, h1, h2, h3, ht⟩ := h
      rw [ih ht, ← wordOfBytes_fields x, h0, h1, h2, h3, wordOfBytes_fields]

/-- Packed bytes stand in their words with zeros after them up to the last word's end (R63). -/
theorem bytesOfWords_packBytes (bs : List Byte) :
    bytesOfWords (packBytes bs) = bs ++ List.replicate (4 * ceil4 bs.length - bs.length) 0 := by
  induction bs using packBytes.induct with
  | case1 => rfl
  | case2 | case3 | case4 => simp [packBytes, bytesOfWords, wordBytes_wordOfBytes, ceil4]
  | case5 a b c d t ih =>
    have hpad : 4 * ceil4 (t.length + 4) - (t.length + 4) = 4 * ceil4 t.length - t.length := by
      rw [ceil4_add_four]; omega
    simp only [bytesOfWords] at ih
    simp [packBytes, bytesOfWords, wordBytes_wordOfBytes, ih, hpad]

theorem bytesOfWords_append (v w : List Word) : bytesOfWords (v ++ w) = bytesOfWords v ++ bytesOfWords w :=
  List.flatMap_append

theorem bytesOfWords_take (ws : List Word) (k : Nat) : bytesOfWords (ws.take k) = (bytesOfWords ws).take (4 * k) := by
  induction ws generalizing k with
  | nil => simp [bytesOfWords]
  | cons w t ih => cases k with
    | zero => rfl
    | succ k =>
      have hcons (v : List Word) : bytesOfWords (w :: v) = wordBytes w ++ bytesOfWords v := List.flatMap_cons
      have hfour : 4 * (k + 1) = (wordBytes w).length + 4 * k := Nat.add_comm ..
      rw [List.take_succ_cons, hcons, hcons, ih, hfour, List.take_length_add_append]

/-- Unpacking reads the first bytes of the words (R63). -/
theorem unpackBytes_eq_take (n : Nat) (ws : List Word) : unpackBytes n ws = (bytesOfWords ws).take n := by
  have hn : n ≤ 4 * ceil4 n := by simp only [ceil4]; omega
  have hwords := bytesOfWords_take ws (ceil4 n)
  rw [bytesOfWords] at hwords
  rw [unpackBytes, hwords, List.take_take, Nat.min_eq_left hn]

/-- The words of the bytes read from `pl` and what follows it are `pl` exactly when `pl` has as many words as the bytes
need and its bytes after them are 0. -/
theorem packBytes_unpackBytes_eq_iff {n : Nat} {pl rest : List Word} (hfit : ceil4 n ≤ (pl ++ rest).length) :
    packBytes (unpackBytes n (pl ++ rest)) = pl ↔
      pl.length = ceil4 n ∧ ∀ x ∈ (bytesOfWords pl).drop n, x = 0 := by
  have hn : n ≤ 4 * ceil4 n := by simp only [ceil4]; omega
  have hlen : (unpackBytes n (pl ++ rest)).length = n := by
    rw [unpackBytes_eq_take, List.length_take, bytesOfWords_length]; omega
  have hpack := bytesOfWords_packBytes (unpackBytes n (pl ++ rest))
  rw [hlen] at hpack
  constructor
  · intro hpl
    refine ⟨by rw [← hpl, packBytes_length, hlen], ?_⟩
    rw [hpl] at hpack
    rw [hpack, List.drop_append_of_le_length hlen.ge, List.drop_of_length_le hlen.le, List.nil_append]
    exact fun x hx => List.eq_of_mem_replicate hx
  · rintro ⟨hpl, hzero⟩
    have hbytes : (bytesOfWords pl).length = 4 * ceil4 n := by rw [bytesOfWords_length, hpl]
    have hread : unpackBytes n (pl ++ rest) = (bytesOfWords pl).take n := by
      rw [unpackBytes_eq_take, bytesOfWords_append, List.take_append_of_le_length (hbytes ▸ hn)]
    have hpad : (bytesOfWords pl).drop n = List.replicate (4 * ceil4 n - n) 0 :=
      List.eq_replicate_iff.2 ⟨by rw [List.length_drop, hbytes], hzero⟩
    apply bytesOfWords_injective
    rw [hpack, hread, ← hpad, List.take_append_drop]

/-- The payload words come back exactly when the declared size is the computed length and the padding is 0 (R159). -/
theorem payloadWords_decodePacket_eq_iff {h : Hdr} {a b : Word} {pl rest ws : List Word} (hs : h.size = 5 + pl.length)
    (hfit : ringLen (decodePacket h a b (pl ++ rest)) ≤ 5 + (pl ++ rest).length) (hws : ws.drop 5 = pl) :
    payloadWords (decodePacket h a b (pl ++ rest)) = pl ↔
      h.size = ringLen (decodePacket h a b (pl ++ rest)) ∧
        ∀ x ∈ paddingBytes ws (decodePacket h a b (pl ++ rest)), x = 0 := by
  have hfixed : [] = pl ↔ h.size = 5 ∧ ∀ x ∈ ([] : List Byte), x = 0 := by
    rw [hs, eq_comm, ← List.length_eq_zero_iff]; simp
  obtain ht | ht | ht | ht | ht | ⟨mk, hop⟩ := type_cases (field b 28 4)
  · rw [decodePacket_data _ _ _ ht] at hfit ⊢
    have hwords := packBytes_unpackBytes_eq_iff (Nat.le_of_add_le_add_left hfit)
    have hsize : h.size = ringLen (.data h (decodeData a b (pl ++ rest))) ↔
        pl.length = ceil4 (decodeData a b (pl ++ rest)).payLen := by
      rw [hs]; exact Nat.add_left_cancel_iff
    rw [hsize, paddingBytes, hws]
    exact hwords
  · rw [decodePacket_ack _ _ _ ht]; exact hfixed
  · rw [decodePacket_error _ _ _ ht]; exact hfixed
  · rw [decodePacket_eflushAck _ _ _ ht]; exact hfixed
  · rw [decodePacket_status _ _ _ ht]; exact hfixed
  · rw [hop.decode rfl, hop.ringLen, hop.padding, payloadWords_of_encode (hop.encode h _)]
    have hextra : (decodeOpaque h.size a b (pl ++ rest)).extra = pl := by
      rw [decodeOpaque, hs, Nat.add_sub_cancel_left, List.take_left]
    exact iff_of_true hextra ⟨rfl, nofun⟩

/-! ### The words a packet was read from -/

/-- What the words of a decoded packet say of it (R131). -/
theorem decodeRing_packet {ws : List Word} {i : Instr} {h : Hdr} (hd : decodeRing ws = .ok i) (hr : ringHdr i = some h) :
    h = ⟨(ws.getD 0 0).toNat, field (ws.getD 2 0) 25 3, ws.getD 4 0 ++ ws.getD 3 0⟩ ∧ 5 ≤ h.size ∧
      i = decodePacket h (ws.getD 1 0) (ws.getD 2 0) (ws.drop 5) ∧ ringLen i ≤ ws.length := by
  unfold decodeRing at hd
  split at hd
  iterate 5 (cases hd; cases hr)
  next hne0 hne1 hne2 hne3 hne4 =>
    have hfive : 5 ≤ (ws.getD 0 0).toNat := by
      simp only [imp_false] at hne0 hne1 hne2 hne3 hne4
      omega
    dsimp only at hd
    split at hd
    · cases hd
    · split at hd
      · cases hd
      · next hw =>
        cases hd
        rw [ringHdr_decodePacket] at hr
        cases hr
        refine ⟨rfl, hfive, rfl, ?_⟩
        rw [← packetLen_eq_ringLen]
        exact (hasWords_iff ws _).1 (by simpa using hw)

theorem exists_five_cons :
    ∀ {ws : List Word}, 5 ≤ ws.length → ∃ sz a b lo hi pl, ws = sz :: a :: b :: lo :: hi :: pl
  | sz :: a :: b :: lo :: hi :: pl, _ => ⟨sz, a, b, lo, hi, pl, rfl⟩

/-- The listed bits and the payload are all that can differ between the words of a packet and their encoding. -/
theorem canonicalWords_eq_iff {h : Hdr} {sz a b lo hi : Word} {pl pl' : List Word} (hs : sz.toNat = 5 + pl.length)
    (hts : h.ts = hi ++ lo) :
    canonicalWords h a b pl' = sz :: a :: b :: lo :: hi :: pl ↔
      a &&& ~~~(listedBits (field b 28 4)).1 = 0 ∧ b &&& ~~~(listedBits (field b 28 4)).2 = 0 ∧ pl' = pl := by
  have hsz : BitVec.ofNat 32 (5 + pl.length) = sz := by rw [← hs, BitVec.ofNat_toNat, BitVec.setWidth_eq]
  have hlo : h.ts.extractLsb' 0 32 = lo := hts ▸ BitVec.extractLsb'_append_eq_right
  have hhi : h.ts.extractLsb' 32 32 = hi := hts ▸ BitVec.extractLsb'_append_eq_left
  simp only [canonicalWords, List.cons.injEq, and_eq_self_iff, hlo, hhi, true_and]
  exact ⟨fun ⟨_, ha, hb, hpl⟩ => ⟨ha, hb, hpl⟩, fun ⟨ha, hb, hpl⟩ => ⟨hpl ▸ hsz, ha, hb, hpl⟩⟩

/-- Settles O59: of the words of a decoded packet the encoder keeps the listed bits, and its payload words are those read
exactly under the conditions on the size and the padding. -/
theorem encodeReproducesTheDecodedWords : Obligations.EncodeReproducesTheDecodedWords := by
  intro ws rest i h hd hr hlen
  obtain ⟨hh, hfive, hpkt, hfit⟩ := decodeRing_packet hd hr
  obtain ⟨sz, a, b, lo, hi, pl, rfl⟩ := exists_five_cons (hlen ▸ hfive)
  have hs : h.size = 5 + pl.length := by rw [← hlen]; simp only [List.length_cons]; omega
  obtain rfl : i = decodePacket h a b (pl ++ rest) := hpkt
  have hpayload := payloadWords_decodePacket_eq_iff (ws := sz :: a :: b :: lo :: hi :: pl) hs
    (hfit.trans_eq (by simp only [List.length_append, List.length_cons]; omega)) rfl
  rw [encode_decodePacket (by rw [hh]; rfl), Fetched.ring.injEq,
    canonicalWords_eq_iff (by rw [← hs, hh]; rfl) (by rw [hh]; rfl), reservedMasks_decodePacket, hpayload]
  rfl

end Sys2Proof.Machine
end

section
/-! Sample words of the spec's tables (40_codec.md R131, R141-R145, R152, R158). -/

namespace Sys2Proof.Machine

/-- Settles O2: the decoder is evaluated on each word sequence. -/
theorem sampleWordsDecodeAsTheSpecSays : Obligations.SampleWordsDecodeAsTheSpecSays := by
  refine ⟨?_, ?_, ?_, ?_, ?_, ?_, ?_⟩ <;> decide

end Sys2Proof.Machine
end

section
/-! The notifications that no other waits for (60_exceptions.md R280): a buffer is taken, or a loss of the DMA is counted
(41_ring_consumer.md R160, R173). -/

namespace Sys2Proof.Machine

/-- Settles O24: the signals of the buffer are dropped from the pending ones, and its consumption starts. -/
theorem rxReadyStartsTheConsumption : Obligations.RxReadyStartsTheConsumption := by
  intro s b ha hb
  simp only [exec, execRxReady, State.whenAttached_attached ha, hb, Bool.false_eq_true, if_false]
  rfl

/-- A notification that is counted while no other is handled leaves nothing to acknowledge (R173, R281). -/
theorem State.count_ackNotification {s : State} (hb : s.notifyBusy = false) (g : GlobalCounters) :
    { s with global := g }.ackNotification = { s with global := g } := by
  rw [State.ackNotification, ← hb]

/-- Settles O25: each loss is counted, and the acknowledge leaves an idle handler as it is. -/
theorem dmaLossIsCounted : Obligations.DmaLossIsCounted := by
  intro s b ha hb
  have hidle : ¬ s.notifyBusy = true := by simp [hb]
  have hserve (i : Instr) (g : GlobalCounters) :
      (if s.notifyBusy then s.hold i else { s with global := g }.ackNotification) = { s with global := g } :=
    (if_neg hidle).trans (State.count_ackNotification hb g)
  simp only [exec, execDmaOverflow, execDmaUnderflow, State.whenAttached_attached ha, hserve, and_self]

end Sys2Proof.Machine
end

section
/-! The exits of a consumption (41_ring_consumer.md R162-R164, R171): end marker, bound, malformed packet. -/

namespace Sys2Proof.Machine

/-! ### What the decoder makes of the size word -/

theorem decodeRing_endMark {ws : List Word} (h : ws.getD 0 0 = 0) : decodeRing ws = .ok .endMark := by
  rw [decodeRing, h]; rfl

/-- A size of 1 to 4 is a marker, whatever else is in the words; from 5 on the declared size and the computed length are
held against the words there are (R131, R133). -/
theorem decodeRing_eq_overrun_iff (ws : List Word) :
    decodeRing ws = .error .overrun ↔
      5 ≤ (ws.getD 0 0).toNat ∧
        ws.length < max (ws.getD 0 0).toNat (packetLen (ws.getD 0 0).toNat (ws.getD 1 0) (ws.getD 2 0)) := by
  have hmissing (n : Nat) : (!hasWords ws n) = true ↔ ws.length < n := by
    rw [Bool.not_eq_true', Bool.eq_false_iff, Ne, hasWords_iff, Nat.not_le]
  unfold decodeRing
  split
  iterate 5 exact iff_of_false nofun (by omega)
  next h0 h1 h2 h3 h4 =>
    have hfive : 5 ≤ (ws.getD 0 0).toNat := by
      simp only [imp_false] at h0 h1 h2 h3 h4
      omega
    rw [lt_max_iff, and_iff_right hfive]
    dsimp only
    split
    · next hsize => exact iff_of_true rfl (.inl ((hmissing _).1 hsize))
    · next hsize =>
      split
      · next hlen => exact iff_of_true rfl (.inr ((hmissing _).1 hlen))
      · next hlen => exact iff_of_false nofun (not_or.2 ⟨hsize ∘ (hmissing _).2, hlen ∘ (hmissing _).2⟩)

/-- The first word that `DECODE` reads is the one at the cursor (R131). -/
theorem bufWordsFrom_getD_zero (m : List Host.Cell) (b : Buf) {pos : Nat} (h : pos < Config.bufWords) :
    (bufWordsFrom m b pos).getD 0 0 = memRead m b pos := by
  have hpos : 0 < Config.bufWords - pos := Nat.sub_pos_of_lt h
  rw [List.getD_eq_getElem _ _ (by simpa using hpos), bufWordsFrom_getElem m b pos 0 hpos, Nat.add_zero]

/-! ### The exits in the words of the statements -/

section
variable {s s' : State}

theorem State.abortConsume_eq_rearmed (s : State) (x : Exc) : s.abortConsume x = (s.takeException x).rearmed :=
  State.endConsume_eq_rearmed _

theorem State.stopQuietly_consuming (ha : s.attached = true) (hb : s.notifyBusy = true) :
    s.stopQuietly = .next s.rearmed :=
  State.whenConsuming_next.2 ⟨ha, hb, State.endConsume_eq_rearmed s⟩

theorem State.malformed_consuming (why : Malformed) (ha : s.attached = true) (hb : s.notifyBusy = true) :
    s.malformed why =
      .next (s.takeException (.malformedPacket s.curBuf (s.cursor.get s.curBuf) why)).rearmed :=
  State.whenConsuming_next.2 ⟨ha, hb, State.abortConsume_eq_rearmed s _⟩

/-- The handler's turn changes the input, the draws and the count of free values only. -/
theorem handlerTurn.eq_with (h : handlerTurn s s') :
    ∃ arr d n, s' = { s with arrivals := arr, draw := d, freeCount := n } := by
  obtain ⟨-, ⟨d, k, rest, -, rfl⟩ | ⟨-, rfl⟩⟩ := h
  · exact ⟨rest, d, s.freeCount, rfl⟩
  · exact ⟨s.arrivals, _, _, rfl⟩

/-- With nothing decodable at the cursor the turn is a malformed packet (R163). -/
theorem step_overrun {e : DecodeError} (h : handlerTurn s s') (hb : s.notifyBusy = true)
    (hc : s.cursor.get s.curBuf < 1024)
    (hd : decodeRing (bufWordsFrom s.mem s.curBuf (s.cursor.get s.curBuf)) = .error e) :
    step s = s'.malformed .overrun := by
  refine step_own ((nextOp_handlerTurn h hb).trans ?_)
  obtain ⟨arr, d, n, rfl⟩ := h.eq_with
  exact ringTurn_error hc hd

/-- With the cursor at the end of the buffer the turn decodes nothing (R164). -/
theorem step_bound (h : handlerTurn s s') (hb : s.notifyBusy = true) (hc : 1024 ≤ s.cursor.get s.curBuf) :
    step s = s'.stopQuietly := by
  refine step_own ((nextOp_handlerTurn h hb).trans ?_)
  obtain ⟨arr, d, n, rfl⟩ := h.eq_with
  exact ringTurn_bound hc

end

/-- Settles O28: the zero word at the cursor is decoded as the end marker, which ends the consumption. -/
theorem endMarkerEndsTheFill : Obligations.EndMarkerEndsTheFill := by
  refine ⟨fun s ha hb => State.stopQuietly_consuming ha hb, fun s s' ht ha hb hc hw => ?_⟩
  obtain ⟨-, -, hring, -⟩ := stepRunsTheDecodedOperation
  have hmark := decodeRing_endMark ((bufWordsFrom_getD_zero s.mem s.curBuf hc).trans hw)
  rw [hring s s' .endMark ht hb hc hmark]
  obtain ⟨arr, d, n, rfl⟩ := ht.eq_with
  exact State.stopQuietly_consuming ha hb

/-- Settles O29: the two ways of a packet to be malformed, which are told apart by the size word, end the consumption. -/
theorem malformedPacketsAbortTheBuffer : Obligations.MalformedPacketsAbortTheBuffer := by
  refine ⟨fun s ha hb i hi => ?_, decodeRing_eq_overrun_iff, fun s s' ht ha hb hc hd => ?_⟩
  · simp only [List.mem_cons, List.not_mem_nil, or_false] at hi
    obtain rfl | rfl | rfl | rfl := hi <;> exact State.malformed_consuming .undersize ha hb
  · rw [step_overrun ht hb hc hd]
    obtain ⟨arr, d, n, rfl⟩ := ht.eq_with
    exact State.malformed_consuming .overrun ha hb

/-- Settles O30: at the bound nothing is decoded, and the consumption ends as at the end marker. -/
theorem bufferBoundEndsTheFillSilently : Obligations.BufferBoundEndsTheFillSilently := by
  intro s s' ht ha hb hc
  rw [step_bound ht hb hc.ge]
  obtain ⟨arr, d, n, rfl⟩ := ht.eq_with
  exact State.stopQuietly_consuming ha hb

end Sys2Proof.Machine
end

section
/-! A packet at the cursor (41_ring_consumer.md R166-R170): its handler or the invalid channel, then the framing check. -/

namespace Sys2Proof.Machine

/-- Settles O31: the draw decides between the delivery and the drop; the handler reads neither the bus state nor
`FD_CAP`. -/
theorem dataFrameIsDeliveredOrDropped : Obligations.DataFrameIsDeliveredOrDropped := by
  intro h p s ch hr
  have ⟨_, _, _, hsize⟩ := hr
  rw [hsize]
  constructor
  · intro hd
    exact State.packet_next_after (f := handleData h.ts p) hr (if_pos hd)
  · intro hd
    exact State.packet_next_after (f := handleData h.ts p) hr (if_neg (ne_true_of_eq_false hd))

/-- Settles O32: the handlers of these types count, and for an unassigned type log, and no more. -/
theorem packetsWithoutHandlerAreSkipped : Obligations.PacketsWithoutHandlerAreSkipped := by
  intro h p s ch hr
  have known := State.packet_next_after (f := handleUnexpected) hr rfl
  have unassigned (typ : BitVec 4) := State.packet_next_after (f := handleUnknown typ) hr rfl
  refine ⟨fun i hi => ?_, fun j hj => ?_⟩
  · simp only [List.mem_cons, List.not_mem_nil, or_false] at hi
    obtain rfl | rfl | rfl | rfl := hi <;> exact known
  · simp only [List.mem_cons, List.not_mem_nil, or_false] at hj
    obtain rfl | rfl | rfl | rfl | rfl | rfl | rfl := hj <;> exact unassigned _

section
variable {s : State} {h : Hdr} {len : Nat}

/-- A packet with the right declared size moves the cursor past it. -/
theorem State.packet_framed (f : Ctx → Work → Work) (ha : s.attached = true) (hb : s.notifyBusy = true)
    (hs : h.size = len) : s.packet h len f = .next ((s.dispatch h.ch f).pastPacket len) := by
  rw [State.packet_next.2 ⟨ha, hb, rfl⟩, hs, State.framingCheck_same]
  rfl

/-- A packet with a wrong declared size is handled, and then ends the consumption (R170). -/
theorem State.packet_misframed (f : Ctx → Work → Work) (ha : s.attached = true) (hb : s.notifyBusy = true)
    (hs : h.size ≠ len) :
    s.packet h len f =
      .next ((s.dispatch h.ch f).takeException (.framingError s.curBuf (s.cursor.get s.curBuf))).rearmed := by
  have hsame := sameConsumption_dispatch s h.ch f
  rw [State.packet_next.2 ⟨ha, hb, rfl⟩, State.framingCheck_ne _ hs.symm, State.abortConsume_eq_rearmed, hsame.cursor,
    hsame.curBuf]

/-- The same packet under its right size has the same effects (R170). -/
theorem State.packet_keepsEffects (f : Ctx → Work → Work) (ha : s.attached = true) (hb : s.notifyBusy = true)
    (hs : h.size ≠ len) :
    ∃ t : State, s.packet { h with size := len } len f = .next (t.pastPacket len) ∧
      s.packet h len f = .next (t.takeException (.framingError s.curBuf (s.cursor.get s.curBuf))).rearmed :=
  ⟨s.dispatch h.ch f, State.packet_framed f ha hb rfl, State.packet_misframed f ha hb hs⟩

end

/-- Settles O33: no channel stands at the number, so the dispatch logs it; the framing check follows as for any packet. -/
theorem invalidChannelIsLogged : Obligations.InvalidChannelIsLogged := by
  intro i h s hi ha hb hc logged
  obtain ⟨f, -, he⟩ := exec_packet hi
  have hlogged : s.dispatch h.ch f = logged := State.dispatch_invalid f hc
  rw [he]
  refine ⟨fun hs => ?_, fun hs => ?_⟩
  · rw [State.packet_framed f ha hb hs, hlogged, hs]
  · rw [State.packet_misframed f ha hb hs, hlogged]
    rfl

/-- Settles O34: the handler runs before the check and does not read the declared size; the computed length of an opaque
packet is its declared size, so it passes. -/
theorem framingErrorKeepsEffectsAndAborts : Obligations.FramingErrorKeepsEffectsAndAborts := by
  intro i h s hi ha hb hs
  cases ringPacket_of_ringHdr hi with
  | data p => exact ⟨State.packet_keepsEffects (handleData h.ts p) ha hb hs, .inl ⟨p, rfl⟩⟩
  | ack p => exact ⟨State.packet_keepsEffects (handleAck h.ts p) ha hb hs, .inr (.inl ⟨p, rfl⟩)⟩
  | status p => exact ⟨State.packet_keepsEffects (handleStatus h.ts p) ha hb hs, .inr (.inr (.inl ⟨p, rfl⟩))⟩
  | error p => exact ⟨State.packet_keepsEffects (handleError h.ts p) ha hb hs, .inr (.inr (.inr (.inl ⟨p, rfl⟩)))⟩
  | eflushAck q => exact ⟨State.packet_keepsEffects (handleEflushAck q) ha hb hs, .inr (.inr (.inr (.inr ⟨q, rfl⟩)))⟩
  | carried ht p => exact absurd (ht.ringLen h p).symm hs

end Sys2Proof.Machine
end

section
/-! The re-arm of a consumed buffer (41_ring_consumer.md R171, R174; 70_reset_and_hazards.md R315): the handlers re-arm
nothing, the exits of the consumer re-arm once. -/

namespace Sys2Proof.Machine

/-! ### The operations of the handlers re-arm nothing -/

/-- No re-arm is among the outputs. -/
def Work.Unarmed (w : Work) : Prop := ∀ e ∈ w.out, isArm e = false

section
variable {x : Ctx} {w : Work}

theorem Work.unarmed_start (ch : Chan) : (Work.start ch).Unarmed := fun _ h => absurd h List.not_mem_nil

@[simp] theorem Work.emit_unarmed (e : Event) : (w.emit e).Unarmed ↔ w.Unarmed ∧ isArm e = false := by
  simp [Work.Unarmed, or_imp, forall_and]
@[simp] theorem Work.upd_unarmed (f : Chan → Chan) : (w.upd f).Unarmed ↔ w.Unarmed := Iff.rfl
@[simp] theorem Work.count_unarmed (f : Counters → Counters) : (w.count f).Unarmed ↔ w.Unarmed := Iff.rfl
@[simp] theorem Work.return_unarmed (r : Result) : (w.return r).Unarmed ↔ w.Unarmed := Iff.rfl
@[simp] theorem Work.logExc_unarmed (e : Exc) : (w.logExc e).Unarmed ↔ w.Unarmed := Iff.rfl
@[simp] theorem clearFlush_unarmed : (clearFlush w).Unarmed ↔ w.Unarmed := Iff.rfl

@[simp] theorem setTx_unarmed (e f : Bool) : (setTx x e f w).Unarmed ↔ w.Unarmed := by
  simp only [setTx]; split_ifs <;> simp [isArm]

@[simp] theorem issueCmd_unarmed (op : Opcode) : (issueCmd x op w).Unarmed ↔ w.Unarmed := by simp [issueCmd, isArm]

@[simp] theorem startFlush_unarmed : (startFlush x w).Unarmed ↔ w.Unarmed := by
  simp only [startFlush]; split <;> simp

@[simp] theorem sendEof_unarmed : (sendEof x w).Unarmed ↔ w.Unarmed := by simp [sendEof, isArm]

@[simp] theorem announce_unarmed (o n : BusState) : (announce x o n w).Unarmed ↔ w.Unarmed := by
  simp only [announce]; split <;> simp [isArm]

@[simp] theorem reenableErrGen_unarmed : (reenableErrGen x w).Unarmed ↔ w.Unarmed := by
  simp only [reenableErrGen]; split <;> simp [isArm]

@[simp] theorem enterBusOff_unarmed : (enterBusOff x w).Unarmed ↔ w.Unarmed := by
  simp only [enterBusOff]; split <;> simp

@[simp] theorem changeState_unarmed (new : BusState) : (changeState x new w).Unarmed ↔ w.Unarmed := by
  simp only [changeState]; split <;> split <;> simp [isArm]

@[simp] theorem sendErr_unarmed (e : ErrEvent) : (sendErr x e w).Unarmed ↔ w.Unarmed := by
  simp only [sendErr]; split <;> simp [isArm]

@[simp] theorem errCapCheck_unarmed : (errCapCheck x w).Unarmed ↔ w.Unarmed := by
  simp only [errCapCheck]; split <;> simp [isArm]

@[simp] theorem stopDone_unarmed (r : Result) : (stopDone x r w).Unarmed ↔ w.Unarmed := by simp [stopDone, isArm]

@[simp] theorem resumeCheck_unarmed : (resumeCheck x w).Unarmed ↔ w.Unarmed := by
  simp only [resumeCheck]; split <;> simp

@[simp] theorem stopCheck_unarmed (hwPost : Byte) : (stopCheck x hwPost w).Unarmed ↔ w.Unarmed := by
  simp only [stopCheck]; split <;> simp

@[simp] theorem deferredEof_unarmed : (deferredEof x w).Unarmed ↔ w.Unarmed := by
  simp only [deferredEof]; split <;> simp

/-! ### The handlers -/

theorem handleData_unarmed (ts : Stamp) (p : DataPkt) : (handleData ts p x w).Unarmed ↔ w.Unarmed := by
  simp only [handleData]; split <;> simp [isArm]

@[simp] theorem release_unarmed (ts : Stamp) (p : AckPkt) (i : Nat) : (release ts p x i w).Unarmed ↔ w.Unarmed := by
  simp only [release]; split <;> simp [isArm]

@[simp] theorem ackSlot_unarmed (ts : Stamp) (p : AckPkt) : (ackSlot ts p x w).Unarmed ↔ w.Unarmed := by
  simp only [ackSlot]; split_ifs <;> simp

@[simp] theorem handleNack_unarmed (ts : Stamp) (p : AckPkt) : (handleNack ts p x w).Unarmed ↔ w.Unarmed := by
  simp only [handleNack]; split <;> simp

theorem handleAck_unarmed (ts : Stamp) (p : AckPkt) : (handleAck ts p x w).Unarmed ↔ w.Unarmed := by
  simp only [handleAck]; split <;> simp

theorem handleError_unarmed (ts : Stamp) (p : ErrorPkt) : (handleError ts p x w).Unarmed ↔ w.Unarmed := by
  simp only [handleError]; split_ifs <;> simp

theorem handleEflushAck_unarmed (seq : Byte) : (handleEflushAck seq x w).Unarmed ↔ w.Unarmed := by
  simp only [handleEflushAck]
  split
  · simp
  · split
    · simp [flushAckedBuson, isArm]
    · simp
    · simp

@[simp] theorem startDone_unarmed : (startDone x w).Unarmed ↔ w.Unarmed := by simp [startDone, isArm]

@[simp] theorem eofOrDefer_unarmed : (eofOrDefer x w).Unarmed ↔ w.Unarmed := by
  simp only [eofOrDefer]; split <;> simp

@[simp] theorem statusResponse_unarmed (ts : Stamp) (p : StatusPkt) :
    (statusResponse ts p x w).Unarmed ↔ w.Unarmed := by
  simp only [statusResponse]; split_ifs <;> simp

@[simp] theorem ignoreStatus_unarmed (p : StatusPkt) : (ignoreStatus p x w).Unarmed ↔ w.Unarmed := by
  simp only [ignoreStatus]; split <;> simp

theorem handleStatus_unarmed (ts : Stamp) (p : StatusPkt) : (handleStatus ts p x w).Unarmed ↔ w.Unarmed := by
  simp only [handleStatus, retrigger]; split_ifs <;> simp

@[simp] theorem waitExpire_unarmed : (waitExpire x w).Unarmed ↔ w.Unarmed := by
  simp only [waitExpire]; split <;> simp [isArm]

@[simp] theorem tickWait_unarmed : (tickWait x w).Unarmed ↔ w.Unarmed := by
  simp only [tickWait]; split_ifs <;> simp

@[simp] theorem pollExpire_unarmed : (pollExpire x w).Unarmed ↔ w.Unarmed := by
  simp only [pollExpire]; split_ifs <;> simp [isArm]

@[simp] theorem tickPoll_unarmed : (tickPoll x w).Unarmed ↔ w.Unarmed := by
  simp only [tickPoll]; split_ifs <;> simp

theorem requestBuson_unarmed : (requestBuson x w).Unarmed ↔ w.Unarmed := by
  simp only [requestBuson, block]; split <;> simp

theorem requestStop_unarmed : (requestStop x w).Unarmed ↔ w.Unarmed := by
  simp only [requestStop, block]; split <;> simp

theorem requestSubmit_unarmed (f : TxFrame) (a b : Byte) : (requestSubmit f a b x w).Unarmed ↔ w.Unarmed := by
  simp only [requestSubmit, accept]; split_ifs <;> simp [isArm]

end

/-- A handler that re-arms no buffer. -/
def NeverArms (f : Ctx → Work → Work) : Prop := ∀ x w, w.Unarmed → (f x w).Unarmed

theorem neverArms_tickChan : NeverArms tickChan := fun _ _ h => tickPoll_unarmed.2 (tickWait_unarmed.2 h)

theorem PacketHandler.neverArms {f : Ctx → Work → Work} (hf : PacketHandler f) : NeverArms f := by
  intro x w h
  cases hf with
  | data ts p => exact (handleData_unarmed ts p).2 h
  | ack ts p => exact (handleAck_unarmed ts p).2 h
  | error ts p => exact (handleError_unarmed ts p).2 h
  | eflushAck seq => exact (handleEflushAck_unarmed seq).2 h
  | status ts p => exact (handleStatus_unarmed ts p).2 h
  | unexpected | unknown => exact h

theorem RequestHandler.neverArms {f : Ctx → Work → Work} (hf : RequestHandler f) : NeverArms f := by
  intro x w h
  cases hf with
  | buson => exact requestBuson_unarmed.2 h
  | stop => exact requestStop_unarmed.2 h
  | submit f a b => exact (requestSubmit_unarmed f a b).2 h

/-! ### The shared operations re-arm nothing -/

section
variable {s t u : State} {c : Nat} {f : Ctx → Work → Work}

/-- From `s` to `t` outputs are added to the trace, and no re-arm is among them. -/
def RearmsNothing (s t : State) : Prop := ∃ evs : List Event, (∀ e ∈ evs, isArm e = false) ∧ t.trace = s.trace ++ evs

theorem rearmsNothing_of_trace (h : t.trace = s.trace) : RearmsNothing s t :=
  ⟨[], fun _ he => absurd he List.not_mem_nil, by rw [h, List.append_nil]⟩

theorem RearmsNothing.congr (h : RearmsNothing s u) (ht : t.trace = u.trace) : RearmsNothing s t := by
  obtain ⟨evs, hn, hu⟩ := h
  exact ⟨evs, hn, ht.trans hu⟩

theorem RearmsNothing.trans (h : RearmsNothing s t) (h' : RearmsNothing t u) : RearmsNothing s u := by
  obtain ⟨evs, hn, ht⟩ := h
  obtain ⟨evs', hn', hu⟩ := h'
  refine ⟨evs ++ evs', fun e he => ?_, by rw [hu, ht, List.append_assoc]⟩
  obtain he | he := List.mem_append.1 he
  · exact hn e he
  · exact hn' e he

theorem rearmsNothing_commit (hf : NeverArms f) (ch : Chan) :
    RearmsNothing s (s.commit c (f (s.ctx c) (Work.start ch))) :=
  ⟨_, hf _ _ (Work.unarmed_start ch), rfl⟩

theorem rearmsNothing_onChan (hf : NeverArms f) : RearmsNothing s (s.onChan c f) := by
  obtain ⟨-, he⟩ | ⟨ch, -, he⟩ := s.onChan_cases c f <;> rw [he]
  · exact rearmsNothing_of_trace rfl
  · exact rearmsNothing_commit hf ch

theorem rearmsNothing_onRequest (hf : NeverArms f) : RearmsNothing s (s.onRequest c f) := by
  cases hg : s.channels[c]? with
  | none => rw [State.onRequest_of_none f hg]; exact rearmsNothing_of_trace rfl
  | some ch =>
    rw [State.onRequest_of_get f hg]
    exact (rearmsNothing_commit hf ch).congr rfl

theorem rearmsNothing_dispatch {b : BitVec 3} (hf : NeverArms f) : RearmsNothing s (s.dispatch b f) := by
  obtain ⟨ch, -, he⟩ | ⟨-, he⟩ := s.dispatch_cases b f <;> rw [he]
  · exact rearmsNothing_commit hf ch
  · exact rearmsNothing_of_trace rfl

theorem rearmsNothing_tickFrom (c n : Nat) : RearmsNothing s (s.tickFrom c n) := by
  induction n generalizing s c with
  | zero => exact rearmsNothing_of_trace rfl
  | succ n ih => exact (rearmsNothing_onChan neverArms_tickChan).trans (ih (c + 1))

/-! ### The consumption goes on or ends with one re-arm -/

/-- A step from `s` to `t` re-arms nothing, or it ends the consumption of a buffer and re-arms that buffer last. -/
def RearmsOnce (s t : State) : Prop :=
  ∃ evs : List Event, (∀ e ∈ evs, isArm e = false) ∧
    ((s.notifyBusy = false ∧ t.trace = s.trace ++ evs) ∨
     (s.notifyBusy = true ∧ t.notifyBusy = true ∧ t.curBuf = s.curBuf ∧ t.trace = s.trace ++ evs) ∨
     (s.notifyBusy = true ∧ t.notifyBusy = false ∧ t.trace = s.trace ++ evs ++ [.armDma s.curBuf] ∧
      t.rxPending.get s.curBuf = false ∧ t.cursor.get s.curBuf = 0))

theorem RearmsNothing.rearmsOnce_idle (h : RearmsNothing s t) (hb : s.notifyBusy = false) : RearmsOnce s t := by
  obtain ⟨evs, hn, ht⟩ := h
  exact ⟨evs, hn, .inl ⟨hb, ht⟩⟩

theorem RearmsNothing.rearmsOnce (h : RearmsNothing s t) (hb : t.notifyBusy = s.notifyBusy)
    (hc : t.curBuf = s.curBuf) : RearmsOnce s t := by
  cases hs : s.notifyBusy with
  | false => exact h.rearmsOnce_idle hs
  | true =>
    obtain ⟨evs, hn, ht⟩ := h
    exact ⟨evs, hn, .inr (.inl ⟨hs, hb.trans hs, hc, ht⟩)⟩

theorem rearmsOnce_of_same (hb : t.notifyBusy = s.notifyBusy) (hc : t.curBuf = s.curBuf) (ht : t.trace = s.trace) :
    RearmsOnce s t := (rearmsNothing_of_trace ht).rearmsOnce hb hc

/-- Each exit ends so (R171), whatever the handler has emitted before. -/
theorem RearmsNothing.endConsume (h : RearmsNothing s u) (hb : s.notifyBusy = true) (hc : u.curBuf = s.curBuf) :
    RearmsOnce s u.endConsume := by
  obtain ⟨evs, hn, hu⟩ := h
  refine ⟨evs, hn, .inr (.inr ⟨hb, rfl, ?_, ?_, ?_⟩)⟩
  · rw [State.endConsume_trace, hu, hc]
  · rw [State.endConsume_rxPending, hc, Pair.get_set_same]
  · rw [State.endConsume_cursor, hc, Pair.get_set_same]

theorem RearmsNothing.framingCheck {size len : Nat} (h : RearmsNothing s u) (hb : s.notifyBusy = true)
    (hub : u.notifyBusy = s.notifyBusy) (hc : u.curBuf = s.curBuf) : RearmsOnce s (u.framingCheck size len) := by
  by_cases hl : len = size
  · rw [hl, State.framingCheck_same]
    exact RearmsNothing.rearmsOnce (h.congr rfl) hub hc
  · rw [State.framingCheck_ne u hl]
    exact RearmsNothing.endConsume (h.congr rfl) hb hc

theorem rearmsOnce_malformed {why : Malformed} (he : s.malformed why = .next t) : RearmsOnce s t := by
  obtain ⟨-, hb, rfl⟩ := State.whenConsuming_next.1 he
  exact RearmsNothing.endConsume (rearmsNothing_of_trace rfl) hb rfl

theorem rearmsOnce_attach {cfg : Cfg} (ha : s.attached = true) (he : execAttach cfg s = .next t) : RearmsOnce s t := by
  rw [execAttach, ha, Bool.true_or, if_pos rfl] at he
  cases he
  exact rearmsOnce_of_same rfl rfl rfl

theorem rearmsOnce_request (hf : NeverArms f)
    (he : s.whenAttached (s.whenChan c (.next (s.onRequest c f))) = .next t) : RearmsOnce s t := by
  obtain ⟨-, he⟩ := State.whenAttached_next.1 he
  obtain ⟨-, ⟨⟩⟩ := State.whenChan_next.1 he
  have hsame := sameConsumption_onRequest s c f
  exact (rearmsNothing_onRequest hf).rearmsOnce hsame.notifyBusy hsame.curBuf

theorem rearmsOnce_rxReady {b : Buf} (he : execRxReady b s = .next t) : RearmsOnce s t := by
  obtain ⟨-, ⟨⟩⟩ := State.whenAttached_next.1 he
  split
  · split <;> exact rearmsOnce_of_same rfl rfl rfl
  · next hb => exact RearmsNothing.rearmsOnce_idle (rearmsNothing_of_trace rfl) (by simpa using hb)

theorem rearmsOnce_holdOrServe (i : Instr) (g : GlobalCounters) :
    RearmsOnce s (if s.notifyBusy then s.hold i else { s with global := g }.ackNotification) := by
  split
  · exact rearmsOnce_of_same rfl rfl rfl
  · next hb => exact RearmsNothing.rearmsOnce_idle (rearmsNothing_of_trace rfl) (by simpa using hb)

/-! ### Every operation and every step -/

theorem exec_rearmsOnce {i : Instr} (ha : s.attached = true) (he : exec i s = .next t) : RearmsOnce s t := by
  cases hi : ringHdr i with
  | some hd =>
    obtain ⟨f, hf, hp⟩ := exec_packet hi
    obtain ⟨-, hb, rfl⟩ := State.packet_next.1 (hp s ▸ he)
    have hsame := sameConsumption_dispatch s hd.ch f
    exact (rearmsNothing_dispatch hf.neverArms).framingCheck hb hsame.notifyBusy hsame.curBuf
  | none =>
    cases i with
    | endMark =>
      obtain ⟨-, hb, rfl⟩ := State.whenConsuming_next.1 he
      exact RearmsNothing.endConsume (rearmsNothing_of_trace rfl) hb rfl
    | undersize1 | undersize2 | undersize3 | undersize4 => exact rearmsOnce_malformed he
    | requestStatus | abortFlushReset | eflush | modeClearRm | modeClearEpen | modeSetEpen | txFrame =>
      obtain ⟨-, rfl⟩ := State.writeReg_next.1 he
      exact rearmsOnce_of_same rfl rfl rfl
    | attach cfg => exact rearmsOnce_attach ha he
    | detach =>
      obtain ⟨-, ⟨⟩⟩ := State.whenAttached_next.1 he
      exact rearmsOnce_of_same rfl rfl rfl
    | buson => exact rearmsOnce_request RequestHandler.buson.neverArms he
    | stop => exact rearmsOnce_request RequestHandler.stop.neverArms he
    | submit c f a b => exact rearmsOnce_request (RequestHandler.submit f a b).neverArms he
    | tick =>
      obtain ⟨-, ⟨⟩⟩ := State.whenAttached_next.1 he
      have hsame := sameConsumption_tickFrom s 0 s.channels.length
      exact (rearmsNothing_tickFrom _ _).rearmsOnce hsame.notifyBusy hsame.curBuf
    | rxReady b => exact rearmsOnce_rxReady he
    | txStatus c =>
      obtain ⟨-, he⟩ := State.whenAttached_next.1 he
      obtain ⟨-, ⟨⟩⟩ := State.whenChan_next.1 he
      exact rearmsOnce_holdOrServe _ s.global
    | dmaOverflow b | dmaUnderflow b =>
      obtain ⟨-, ⟨⟩⟩ := State.whenAttached_next.1 he
      exact rearmsOnce_holdOrServe _ _
    | _ => simp [ringHdr] at hi

end

end Sys2Proof.Machine
end

section
/-! What a step does to the state in which it has taken its input, and with it the re-arms of a step. -/

namespace Sys2Proof.Machine

/-- What happens once the input is taken: an operation, a write of the hardware, a malformed packet that is not decoded, or
nothing. -/
inductive Performs (s : State) : State → Prop
  | operation {i : Instr} {t : State} (he : exec i s = .next t) : Performs s t
  | fill {b : Buf} {off : Nat} {bytes : List Byte} {t : State} (he : hardwareFill b off bytes s = .next t) : Performs s t
  | overrun {t : State} (he : s.malformed .overrun = .next t) : Performs s t
  | idle : Performs s s

section
variable {s t : State}

theorem runFetched_performs {f : Fetched} (he : (runFetched f s).perform = .next t) : Performs s t := by
  unfold runFetched at he
  split at he
  · exact .operation he
  · cases he

/-- At the bound the consumer does what the end marker does (R162, R164). -/
theorem ringTurn_performs (he : (ringTurn s).perform = .next t) : Performs s t := by
  obtain ⟨-, hr⟩ | ⟨-, hr⟩ | ⟨i, -, -, hr⟩ := ringTurn_cases s <;> rw [hr] at he
  · exact .operation (i := .endMark) he
  · exact .overrun he
  · exact .operation he

theorem notifyTurn_performs {k : Nat} (he : (notifyTurn k s).perform = .next t) :
    ∃ held, Performs { s with held := held } t := by
  obtain ⟨-, hn⟩ | ⟨-, i, -, hn⟩ | ⟨-, -, hn⟩ := notifyTurn_cases k s <;> rw [hn] at he
  · exact ⟨s.held, ringTurn_performs he⟩
  · exact ⟨_, .operation he⟩
  · cases he
    exact ⟨s.held, .idle⟩

/-- A step takes its input from the streams and the pending sources; the rest of the state is as before when what it
brings is performed. -/
theorem step_performs (he : step s = .next t) :
    ∃ out arr d n held,
      Performs { s with outbox := out, arrivals := arr, draw := d, freeCount := n, held := held } t := by
  rw [step_eq_perform] at he
  cases ho : s.outbox with
  | cons w rest =>
    rw [nextOp_outbox ho] at he
    exact ⟨rest, s.arrivals, s.draw, s.freeCount, s.held, runFetched_performs he⟩
  | nil =>
    cases ha : s.arrivals with
    | nil =>
      simp only [nextOp, ho, ha] at he
      obtain ⟨held, hp⟩ := notifyTurn_performs he
      split at hp
      · exact ⟨s.outbox, s.arrivals, _, _, held, hp⟩
      · exact ⟨s.outbox, s.arrivals, s.draw, s.freeCount, held, hp⟩
    | cons a rest =>
      cases a with
      | request m =>
        rw [nextOp_request ho ha] at he
        exact ⟨s.outbox, rest, s.draw, s.freeCount, s.held, runFetched_performs he⟩
      | fill b off bytes =>
        rw [nextOp_fill ho ha] at he
        exact ⟨s.outbox, rest, s.draw, s.freeCount, s.held, .fill he⟩
      | turn d k =>
        rw [nextOp_turn ho ha] at he
        obtain ⟨held, hp⟩ := notifyTurn_performs he
        exact ⟨s.outbox, rest, d, s.freeCount, held, hp⟩

theorem Performs.rearmsOnce (hp : Performs s t) (ha : s.attached = true) : RearmsOnce s t := by
  cases hp with
  | operation he => exact exec_rearmsOnce ha he
  | fill he =>
    obtain ⟨-, -, rfl⟩ := hardwareFill_next.1 he
    exact rearmsOnce_of_same rfl rfl rfl
  | overrun he => exact rearmsOnce_malformed he
  | idle => exact rearmsOnce_of_same rfl rfl rfl

end

/-- Settles O54: no input is an output or belongs to the consumption, and of what is performed only the exits of the
consumer re-arm, after all that the handler has emitted. -/
theorem bufferIsRearmedExactlyOnce : Obligations.BufferIsRearmedExactlyOnce := by
  intro s t ha he
  obtain ⟨out, arr, d, n, held, hp⟩ := step_performs he
  exact hp.rearmsOnce ha

end Sys2Proof.Machine
end

section
/-! From a legal state the core goes on (42_channel_fsm.md R202, 60_exceptions.md R275): what each stream brings can be
performed, and every effect of an attached core keeps the state legal. -/

namespace Sys2Proof.Machine

/-! ### What each stream brings can be performed -/

/-- The operations of the request port (R122). -/
def isRequest : Instr → Bool
  | .attach _ | .detach | .buson _ | .stop _ | .submit _ _ _ _ | .tick | .rxReady _ | .txStatus _ | .dmaOverflow _
  | .dmaUnderflow _ => true
  | _ => false

theorem isRequest_of_decodePort {m : PortMsg} {i : Instr} (h : decodePort m = .ok i) : isRequest i = true := by
  unfold decodePort at h
  split at h
  case h_7 | h_9 | h_10 =>
    obtain ⟨d, rfl⟩ := decodeBuf_map_ok h
    rfl
  all_goals cases h
  all_goals rfl

theorem isRequest_of_isNotification {i : Instr} (h : isNotification i = true) : isRequest i = true := by
  cases i with
  | rxReady | txStatus | dmaOverflow | dmaUnderflow => rfl
  | _ => cases h

/-- An outbound word is a write to a register of its channel (R46). -/
theorem exec_of_decodeReg {w : RegWrite} {i : Instr} (hd : decodeReg w = .ok i) :
    ∃ f, ∀ s, exec i s = s.writeReg (regWriteChan w) f := by
  cases w with
  | cmd | ctrl | mode => simp only [decodeReg] at hd; split_ifs at hd <;> cases hd <;> exact ⟨_, fun _ => rfl⟩
  | fifo => simp only [decodeReg] at hd; split at hd <;> cases hd; exact ⟨_, fun _ => rfl⟩

section
variable {s t : State} {i : Instr}

/-- A request is performed if the channel it names, if any, exists. -/
theorem exec_request_next (ha : s.attached = true) (hi : isRequest i = true)
    (hn : namesChannel s.channels.length i = true) : ∃ t, exec i s = .next t := by
  cases i with
  | attach cfg => exact ⟨_, if_pos (by simp [ha])⟩
  | detach | tick | rxReady | dmaOverflow | dmaUnderflow => exact ⟨_, State.whenAttached_next.2 ⟨ha, rfl⟩⟩
  | buson | stop | submit | txStatus =>
    exact ⟨_, State.whenAttached_next.2 ⟨ha, State.whenChan_next.2 ⟨of_decide_eq_true hn, rfl⟩⟩⟩
  | _ => cases hi

/-- Whatever item of the ring is read in a consumption, it is performed (R275). -/
theorem exec_ringItem_next {ws : List Word} (ha : s.attached = true) (hb : s.notifyBusy = true)
    (hd : decodeRing ws = .ok i) : ∃ t, exec i s = .next t := by
  unfold decodeRing at hd
  split at hd
  iterate 5 cases hd; exact ⟨_, State.whenConsuming_next.2 ⟨ha, hb, rfl⟩⟩
  dsimp only at hd
  split_ifs at hd
  cases hd
  obtain ⟨f, -, hf⟩ := exec_packet (ringHdr_decodePacket _ _ _ _)
  exact ⟨_, (hf s).trans (State.packet_next.2 ⟨ha, hb, rfl⟩)⟩

/-- An operation that is performed has found the channel it names. -/
theorem namesChannel_of_next (he : exec i s = .next t) : namesChannel s.channels.length i = true := by
  cases i with
  | buson | stop | submit | txStatus =>
    obtain ⟨-, he⟩ := State.whenAttached_next.1 he
    exact decide_eq_true (State.whenChan_next.1 he).1
  | _ => rfl

/-! ### The shared operations keep the state legal -/

/-- What `runInv` reads of the outputs, the registers and the pending sources. -/
theorem runInv_congr (h : runInv s) (ha : t.attached = s.attached) (hc : t.cfg = s.cfg) (hch : t.channels = s.channels)
    (hr : t.regs.length = s.regs.length) (ho : t.outbox ⊆ s.outbox) (hh : t.held ⊆ s.held) : runInv t := by
  obtain ⟨hatt, hchan, ⟨hregs, hout⟩, hheld⟩ := h
  refine ⟨ha.trans hatt, channelsInv_congr hchan ha hc hch, ⟨hr.trans hregs, fun w hw => hout w (ho hw)⟩, fun i hi => ?_⟩
  rw [hch]
  exact hheld i (hh hi)

/-- A good handler's work keeps the contexts legal, and its register writes can be performed. -/
theorem runInv_commit {c : Nat} {ch : Chan} {f : Ctx → Work → Work} (hf : Good f) (h : runInv s)
    (hg : s.channels[c]? = some ch) : runInv (s.commit c (f (s.ctx c) (Work.start ch))) := by
  obtain ⟨hatt, hchan, ⟨hregs, hout⟩, hheld⟩ := h
  obtain ⟨hcfg, hlen, hinv⟩ := hchan hatt
  have hevents := (hf (s.ctx c) (Work.start ch) hcfg (hlen ▸ lt_of_get hg) (hinv ch (List.mem_of_getElem? hg)) (by simp)).2
  refine ⟨hatt, channelsInv_commit hf hchan hg, ⟨hregs, fun w hw => ?_⟩, by simpa using hheld⟩
  obtain hw | hw := List.mem_append.1 hw
  · exact hout w hw
  · obtain ⟨e, he, hw⟩ := List.mem_flatMap.1 hw
    exact ((hevents e he).2 w hw).1

theorem runInv_onChan {c : Nat} {f : Ctx → Work → Work} (hf : Good f) (h : runInv s) : runInv (s.onChan c f) := by
  obtain ⟨-, he⟩ | ⟨ch, hg, he⟩ := s.onChan_cases c f <;> rw [he]
  · exact h
  · exact runInv_commit hf h hg

theorem runInv_onRequest {c : Nat} {f : Ctx → Work → Work} (hf : Good f) (h : runInv s) : runInv (s.onRequest c f) := by
  cases hg : s.channels[c]? with
  | none => rwa [State.onRequest_of_none f hg]
  | some ch =>
    rw [State.onRequest_of_get f hg]
    exact runInv_congr (runInv_commit hf h hg) rfl rfl rfl rfl (List.Subset.refl _) (List.Subset.refl _)

theorem runInv_dispatch {c : BitVec 3} {f : Ctx → Work → Work} (hf : Good f) (h : runInv s) :
    runInv (s.dispatch c f) := by
  obtain ⟨ch, hg, he⟩ | ⟨-, he⟩ := s.dispatch_cases c f <;> rw [he]
  · exact runInv_commit hf h hg
  · exact runInv_congr h rfl rfl rfl rfl (List.Subset.refl _) (List.Subset.refl _)

theorem runInv_tickFrom (c n : Nat) (h : runInv s) : runInv (s.tickFrom c n) := by
  induction n generalizing s c with
  | zero => exact h
  | succ n ih => exact ih (c + 1) (runInv_onChan good_tickChan h)

/-- The re-arm is no register write. -/
theorem runInv_endConsume (h : runInv s) : runInv s.endConsume :=
  runInv_congr h rfl rfl rfl rfl (by simp [State.endConsume_eq_rearmed, State.rearmed]) (List.Subset.refl _)

theorem runInv_abortConsume (x : Exc) (h : runInv s) : runInv (s.abortConsume x) :=
  runInv_endConsume (runInv_congr h rfl rfl rfl rfl (List.Subset.refl _) (List.Subset.refl _))

theorem runInv_framingCheck {size len : Nat} (h : runInv s) : runInv (s.framingCheck size len) := by
  by_cases hl : len = size
  · rw [hl, State.framingCheck_same]
    exact runInv_congr h rfl rfl rfl rfl (List.Subset.refl _) (List.Subset.refl _)
  · rw [State.framingCheck_ne s hl]
    exact runInv_abortConsume _ h

theorem runInv_hold (h : runInv s) (hi : isNotification i = true) (hn : namesChannel s.channels.length i = true) :
    runInv (s.hold i) := by
  obtain ⟨hatt, hchan, hout, hheld⟩ := h
  refine ⟨hatt, hchan, hout, fun j hj => ?_⟩
  obtain hj | hj := List.mem_append.1 hj
  · exact hheld j hj
  · rw [List.mem_singleton.1 hj]
    exact ⟨hi, hn⟩

/-! ### Every operation and every step -/

theorem Effect.runInv (he : Effect s i t) (hn : namesChannel s.channels.length i = true) (h : runInv s)
    (ha : t.attached = true) : runInv t := by
  cases he with
  | packet _ hf _ => exact runInv_framingCheck (runInv_dispatch hf.good h)
  | request hf => exact runInv_onRequest hf.good h
  | tick => exact runInv_tickFrom _ _ h
  | endOfFill => exact runInv_endConsume h
  | malformed => exact runInv_abortConsume _ h
  | attached hd _ => cases hd.symm.trans h.1
  | detached => cases ha
  | rxHeld => exact runInv_hold (runInv_congr h rfl rfl rfl rfl (List.Subset.refl _) (List.Subset.refl _)) rfl rfl
  | held hi => exact runInv_hold h hi hn
  | delivered =>
    exact runInv_congr h rfl rfl rfl (by simp [State.updRegs]) (List.Subset.refl _) (List.Subset.refl _)
  | rxServed => exact runInv_congr h rfl rfl rfl rfl (List.Subset.refl _) ((List.filter_subset_self _))
  | attachRefused | rxAlreadyPending | acknowledged =>
    exact runInv_congr h rfl rfl rfl rfl (List.Subset.refl _) (List.Subset.refl _)

/-- There is a next state, and it is legal unless it is detached. -/
def GoesOn (o : Host.Outcome State Fault Refusal) : Prop := ∃ t, o = .next t ∧ (t.attached = true → runInv t)

theorem runInv.exec_goesOn (h : runInv s) (he : ∃ t, exec i s = .next t) : GoesOn (exec i s) := by
  obtain ⟨t, he⟩ := he
  exact ⟨t, he, (exec_effect he).runInv (namesChannel_of_next he) h⟩

/-- An input taken that is no register write. -/
theorem runInv.inputTaken (h : runInv s) (arr : List Arrival) (d : Draw) (n : Nat) :
    runInv { s with arrivals := arr, draw := d, freeCount := n } := h

theorem runInv.reg_goesOn {w : RegWrite} (h : runInv s) (hw : deliverable w) :
    GoesOn (runFetched (.reg w) s).perform := by
  obtain ⟨hd, hc⟩ := hw
  cases hi : decode (.reg w) with
  | error e => simp [hi, Except.toOption] at hd
  | ok i =>
    rw [runFetched_ok hi]
    refine h.exec_goesOn ?_
    obtain ⟨f, hf⟩ := exec_of_decodeReg hi
    have ⟨_, _, ⟨hregs, _⟩, _⟩ := h
    exact ⟨_, (hf s).trans (State.writeReg_next.2 ⟨hregs ▸ hc, rfl⟩)⟩

theorem runInv.port_goesOn {m : PortMsg} (h : runInv s) (hm : inputLegal s (.request m) = true) :
    GoesOn (runFetched (.port m) s).perform := by
  cases hi : decode (.port m) with
  | error e => simp [inputLegal, hi] at hm
  | ok i =>
    simp only [inputLegal, hi] at hm
    rw [runFetched_ok hi]
    exact h.exec_goesOn (exec_request_next h.1 (isRequest_of_decodePort hi) hm)

theorem runInv.fill_goesOn {b : Buf} {off : Nat} {bytes : List Byte} (h : runInv s)
    (hf : inputLegal s (.fill b off bytes) = true) : GoesOn (hardwareFill b off bytes s) := by
  simp only [inputLegal, Bool.and_eq_true, decide_eq_true_eq, Bool.not_eq_true'] at hf
  exact ⟨_, hardwareFill_next.2 ⟨hf.1, fun _ => hf.2, rfl⟩, fun _ => h⟩

/-- In a consumption every turn is performed: the bound, a packet that overruns it, or any other item. -/
theorem runInv.ringTurn_goesOn (h : runInv s) (hb : s.notifyBusy = true) : GoesOn (ringTurn s).perform := by
  obtain ⟨-, hr⟩ | ⟨-, hr⟩ | ⟨i, -, hd, hr⟩ := ringTurn_cases s <;> rw [hr]
  · exact ⟨_, State.whenConsuming_next.2 ⟨h.1, hb, rfl⟩, fun _ => runInv_endConsume h⟩
  · exact ⟨_, State.whenConsuming_next.2 ⟨h.1, hb, rfl⟩, fun _ => runInv_abortConsume _ h⟩
  · exact h.exec_goesOn (exec_ringItem_next h.1 hb hd)

theorem runInv.notifyTurn_goesOn (h : runInv s) (k : Nat) : GoesOn (notifyTurn k s).perform := by
  obtain ⟨hb, hn⟩ | ⟨-, i, hi, hn⟩ | ⟨-, -, hn⟩ := notifyTurn_cases k s <;> rw [hn]
  · exact h.ringTurn_goesOn hb
  · have ⟨hatt, _, _, hheld⟩ := h
    obtain ⟨hnot, hname⟩ := hheld i (List.mem_of_getElem? hi)
    have h' : Machine.runInv { s with held := s.held.eraseIdx (k % s.held.length) } :=
      runInv_congr h rfl rfl rfl rfl (List.Subset.refl _) List.eraseIdx_subset
    exact h'.exec_goesOn (exec_request_next hatt (isRequest_of_isNotification hnot) hname)
  · exact ⟨s, rfl, fun _ => h⟩

end

/-- Settles O52: each stream brings something that can be performed, and its effect is legal again. -/
theorem noFatalErrorPath : Obligations.NoFatalErrorPath := by
  intro s h hin
  show GoesOn (step s)
  rw [step_eq_perform]
  cases ho : s.outbox with
  | cons w rest =>
    rw [nextOp_outbox ho]
    have ⟨_, _, ⟨_, hout⟩, _⟩ := h
    have h' : runInv { s with outbox := rest } :=
      runInv_congr h rfl rfl rfl rfl (ho ▸ List.subset_cons_self w rest) (List.Subset.refl _)
    exact h'.reg_goesOn (hout w (ho ▸ List.mem_cons_self))
  | nil =>
    cases ha : s.arrivals with
    | nil =>
      simp only [nextOp, ho, ha]
      refine runInv.notifyTurn_goesOn ?_ _
      split
      · exact h.inputTaken s.arrivals _ _
      · exact h
    | cons a rest =>
      have hlegal := hin a (by rw [ha]; rfl)
      have h' := h.inputTaken rest
      cases a with
      | request m =>
        rw [nextOp_request ho ha]
        exact (h' s.draw s.freeCount).port_goesOn hlegal
      | fill b off bytes =>
        rw [nextOp_fill ho ha]
        exact (h' s.draw s.freeCount).fill_goesOn hlegal
      | turn d k =>
        rw [nextOp_turn ho ha]
        exact (h' d s.freeCount).notifyTurn_goesOn k

end Sys2Proof.Machine
end

section
/-! The requests on the bus (42_channel_fsm.md R184, R195): what each makes of the context, then of the state. -/

namespace Sys2Proof.Machine

/-! ### The handlers -/

section
variable (x : Ctx) {w : Work} {ch : Chan}

theorem requestBuson_busy (h : w.ch.op ≠ .none) : requestBuson x w = w.return .busy := if_pos h

theorem requestStop_busy (h : w.ch.op ≠ .none) : requestStop x w = w.return .busy := if_pos h

theorem requestBuson_idle (h : w.ch.op = .none) :
    requestBuson x w = block x .buson (startFlush x (w.upd fun ch => { ch with pollCnt := 0 })) := if_neg (not_not.2 h)

theorem requestStop_idle (h : w.ch.op = .none) :
    requestStop x w = block x .stop (startFlush x (setTx x false w.ch.txFull w)) := if_neg (not_not.2 h)

/-- The signal of a send path that is closed: it stops on the edge only (R223). -/
theorem setTx_close :
    setTx x false ch.txFull (Work.start ch) =
      { ch := { ch with txEnabled := false }
        out := if ch.txEnabled = true ∧ ch.txFull = false then [.txStop x.c] else []
        log := [], ret := none } := by
  apply Work.ext_fields <;> simp [accepting]

end

/-! ### The requests -/

section
variable {s : State} {c : Nat} {ch : Chan} {f : Ctx → Work → Work} {w : Work}

/-- A request that is taken: the handler's work, and the result to the caller. -/
theorem request_serves (hs : serves s c ch) (hw : f (s.ctx c) (Work.start ch) = w) :
    s.whenAttached (s.whenChan c (.next (s.onRequest c f))) = .next { s.after c w.ch w.out w.log with ret := w.ret } := by
  obtain ⟨ha, hg⟩ := hs
  rw [State.whenAttached_next.2 ⟨ha, State.whenChan_next.2 ⟨lt_of_get hg, rfl⟩⟩, State.onRequest_of_get f hg, hw]
  rfl

/-- A request that is handed back (R273). -/
theorem request_returns (r : Result) (hs : serves s c ch) (hw : f (s.ctx c) (Work.start ch) = (Work.start ch).return r) :
    s.whenAttached (s.whenChan c (.next (s.onRequest c f))) = .next { s with ret := some r } := by
  have hsame : s.after c ch [] [] = s := State.after_self hs.2
  rw [request_serves hs hw]
  exact congrArg (fun t : State => Host.Outcome.next { t with ret := some r }) hsame

end

/-- Settles O17: the request cancels the poll timer, then `START_FLUSH` issues the command or finds one outstanding. -/
theorem busonStartsOrAwaitsAFlush : Obligations.BusonStartsOrAwaitsAFlush := by
  intro s c ch hs
  have accepted (hop : ch.op = .none) := request_serves hs (requestBuson_idle (s.ctx c) hop)
  refine ⟨fun hop => ?_, fun hop hf => ?_, fun hop hf => ?_⟩
  · exact request_returns .busy hs (requestBuson_busy _ hop)
  · have taken := accepted hop
    rw [startFlush_idle _ _ hf] at taken
    exact taken
  · have taken := accepted hop
    rw [startFlush_pending _ _ hf] at taken
    exact taken

/-- Settles O18: the send path is closed before `START_FLUSH`, so its signal comes before the command. -/
theorem stopClosesTheSendPathAndFlushes : Obligations.StopClosesTheSendPathAndFlushes := by
  intro s c ch hs
  have accepted (hop : ch.op = .none) := request_serves hs (requestStop_idle (s.ctx c) hop)
  rw [Work.start_ch, setTx_close] at accepted
  refine ⟨fun hop => ?_, fun hop hf => ?_, fun hop hf => ?_⟩
  · exact request_returns .busy hs (requestStop_busy _ hop)
  · have taken := accepted hop
    rw [startFlush_idle _ _ hf] at taken
    exact taken
  · have taken := accepted hop
    rw [startFlush_pending _ _ hf] at taken
    exact taken

end Sys2Proof.Machine
end

section
/-! Status packets and flush acknowledgements (42_channel_fsm.md R187-R194, R197): the branch each takes, and what it makes
of the context. -/

namespace Sys2Proof.Machine

/-! ### The conditions of the branches (R187) in the words of the statements -/

section
variable {ch : Chan} {p : StatusPkt}

theorem isStart_iff :
    isStart ch p = true ↔ ch.op = .buson ∧ ch.stage = .waitStart ∧ p.irm = false ∧ p.rmcd = false ∧ p.boff = false ∧
      p.seq = ch.cmdSeq := by
  simp [isStart, seqIsCmd, and_assoc]

theorem isRetrigger_iff :
    isRetrigger ch p = true ↔ ch.flushPending = true ∧ p.idet = true ∧ p.irm = true ∧ p.aut = true ∧
      p.seq = ch.flushSeq := by
  simp [isRetrigger, seqIsFlush, and_assoc]

theorem isEndOfFlush_iff :
    isEndOfFlush ch p = true ↔ ch.flushPending = true ∧ p.irm = true ∧ p.rmcd = true := by
  simp [isEndOfFlush, and_assoc]

/-- A channel in reset mode has not started (R192). -/
theorem isStart_of_irm (hirm : p.irm = true) : isStart ch p = false := by simp [isStart, hirm]

end

/-! ### The handlers -/

section
variable {x : Ctx} {w : Work} {ch : Chan} {p : StatusPkt} {q : Byte}

/-- A completed bus-on (R192): the bits are set, the change is announced, the send path resumes, the caller is told. -/
theorem startDone_start :
    startDone x (Work.start ch) =
      { ch := { ch with
          busState := .errorActive, txErr := 0, rxErr := 0, errRepCnt := 0, cmdSeq := 0, errGenEn := true, op := .none
          waitCnt := 0, txEnabled := true, txFull := false }
        out := (if ch.errGenEn then [] else [.setModeBits x.c maskEpen maskEpen])
          ++ (if ch.busState ≠ .errorActive then [.onBusStateChange x.c ch.busState .errorActive] else [])
          ++ (if ch.txEnabled = true ∧ ch.txFull = false then [] else [.txResume x.c])
          ++ [.opDone x.c .buson .ok]
        log := [], ret := none } := by
  apply Work.ext_fields
  case h2 => cases hte : ch.txEnabled <;> cases htf : ch.txFull <;> simp [startDone, accepting, hte, htf]
  all_goals simp [startDone]

/-- A completed stop (R197). -/
theorem stopDone_eq (r : Result) :
    stopDone x r w =
      { w with
        ch := { w.ch with
          slots := w.ch.slots.map fun sl => { sl with present := false }
          pollCnt := 0, busState := .stopped, txFull := false, op := .none, waitCnt := 0 }
        out := w.out ++ (if w.ch.busState ≠ .stopped then [.onBusStateChange x.c w.ch.busState .stopped] else [])
          ++ [.opDone x.c .stop r] } := by
  apply Work.ext_fields <;> simp [stopDone, releaseAll]

theorem eofOrDefer_send (hw : x.draw.hwCount = 0) : eofOrDefer x w = sendEof x w := if_pos hw

theorem eofOrDefer_defer (hw : x.draw.hwCount ≠ 0) :
    eofOrDefer x w = w.upd fun ch => { ch with eofDeferred := true } := if_neg hw

theorem ignoreStatus_stale (ha : p.aut = false) (hs : p.seq ≠ w.ch.cmdSeq) :
    ignoreStatus p x w = w.logExc (.protocolViolation .staleSequence x.c) := by
  simp [ignoreStatus, seqIsCmd, ha, hs]

theorem ignoreStatus_automatic (ha : p.aut = true) : ignoreStatus p x w = w := by
  simp [ignoreStatus, ha]

theorem handleEflushAck_stale (h : w.ch.flushPending = false ∨ q ≠ w.ch.flushSeq) :
    handleEflushAck q x w = w.logExc (.protocolViolation .staleFlushAck x.c) :=
  if_pos (by simpa [seqIsFlush] using h)

/-- A matching acknowledgement ends the flush; a bus-on then goes on to its second wait (R190, R191). -/
theorem handleEflushAck_buson (hf : w.ch.flushPending = true) (hq : q = w.ch.flushSeq) (hop : w.ch.op = .buson)
    (hst : w.ch.stage = .waitFlush) : handleEflushAck q x w = flushAckedBuson x (clearFlush w) := by
  simp [handleEflushAck, seqIsFlush, hf, hq, hop, hst]

/-- A matching acknowledgement ends the flush, and with it a stop (R190, R197). -/
theorem handleEflushAck_stop (hf : w.ch.flushPending = true) (hq : q = w.ch.flushSeq) (hop : w.ch.op = .stop)
    (hst : w.ch.stage = .waitFlush) : handleEflushAck q x w = stopDone x .ok (clearFlush w) := by
  simp [handleEflushAck, seqIsFlush, hf, hq, hop, hst]

/-- A matching acknowledgement that no request awaits ends the flush, and no more (R190). -/
theorem handleEflushAck_unawaited (hf : w.ch.flushPending = true) (hq : q = w.ch.flushSeq)
    (hno : w.ch.op = .none ∨ w.ch.stage = .waitStart) : handleEflushAck q x w = clearFlush w := by
  obtain hop | hst := hno
  · simp [handleEflushAck, seqIsFlush, hf, hq, hop]
  · simp [handleEflushAck, seqIsFlush, hf, hq, hst]

end

/-! ### The packets -/

section
variable {h : Hdr} {p : StatusPkt} {s : State} {ch : Chan} {w : Work}

theorem status_receives (hr : receives s h 5 ch) (hw : handleStatus h.ts p (s.ctx h.ch.toNat) (Work.start ch) = w) :
    exec (.status h p) s = .next ((s.after h.ch.toNat w.ch w.out w.log).pastPacket 5) :=
  State.packet_next_after hr hw

theorem eflushAck_receives {q : Byte} (hr : receives s h 5 ch)
    (hw : handleEflushAck q (s.ctx h.ch.toNat) (Work.start ch) = w) :
    exec (.eflushAck h q) s = .next ((s.after h.ch.toNat w.ch w.out w.log).pastPacket 5) :=
  State.packet_next_after hr hw

end

/-- Settles O43: the start status takes the first branch. -/
theorem startStatusCompletesTheBuson : Obligations.StartStatusCompletesTheBuson := by
  intro h p s ch hr hop hst hirm hrmcd hboff hseq
  have hstart : isStart ch p = true := isStart_iff.2 ⟨hop, hst, hirm, hrmcd, hboff, hseq⟩
  exact status_receives hr ((handleStatus_start hstart).trans startDone_start)

/-- Settles O44: the packet is no start status, since the channel is in reset mode, and takes the second branch. -/
theorem idleStatusRetriggersTheFlush : Obligations.IdleStatusRetriggersTheFlush := by
  intro h p s ch hr hf hidet hirm haut hseq
  have hretrigger : isRetrigger ch p = true := isRetrigger_iff.2 ⟨hf, hidet, hirm, haut, hseq⟩
  exact status_receives hr (handleStatus_retrigger (isStart_of_irm hirm) hretrigger)

/-- Settles O45: the packet takes the third branch, which reads the hardware count and no sequence. -/
theorem resetStatusSendsOrDefersTheEndOfFlush : Obligations.ResetStatusSendsOrDefersTheEndOfFlush := by
  intro h p s ch hr hf hirm hrmcd hno
  have hretrigger : isRetrigger ch p = false := by
    refine Bool.eq_false_iff.2 fun hre => hno ?_
    obtain ⟨-, hidet, -, haut, hseq⟩ := isRetrigger_iff.1 hre
    exact ⟨hidet, haut, hseq⟩
  have hend : isEndOfFlush ch p = true := isEndOfFlush_iff.2 ⟨hf, hirm, hrmcd⟩
  have branch := handleStatus_endOfFlush (ts := h.ts) (x := s.ctx h.ch.toNat) (w := Work.start ch)
    (isStart_of_irm hirm) hretrigger hend
  exact ⟨fun hw => status_receives hr (branch.trans (eofOrDefer_send hw)),
    fun hw => status_receives hr (branch.trans (eofOrDefer_defer hw))⟩

/-- Settles O47: none of the four conditions holds, so the packet is ignored, with a log for a stale answer. -/
theorem otherStatusIsIgnored : Obligations.OtherStatusIsIgnored := by
  intro h p s ch hr hnstart hnre hnend
  have hstart : isStart ch p = false := Bool.eq_false_iff.2 (mt isStart_iff.1 hnstart)
  have hretrigger : isRetrigger ch p = false := Bool.eq_false_iff.2 (mt isRetrigger_iff.1 hnre)
  have hend : isEndOfFlush ch p = false := Bool.eq_false_iff.2 (mt isEndOfFlush_iff.1 hnend)
  have branch := handleStatus_ignore (ts := h.ts) (x := s.ctx h.ch.toNat) (w := Work.start ch) hstart hretrigger hend
  refine ⟨fun haut hseq => ?_, fun haut => ?_⟩
  · exact status_receives hr ((branch (by simp [seqIsCmd, hseq])).trans (ignoreStatus_stale haut hseq))
  · have taken := status_receives hr ((branch (by simp [haut])).trans (ignoreStatus_automatic haut))
    obtain ⟨-, -, hg, -⟩ := hr
    rw [taken, Work.start_ch, Work.start_out, Work.start_log, State.after_self hg]

/-- Settles O48: a matching acknowledgement ends the flush, and the request that awaits it, if any, goes on. -/
theorem flushAckCompletesTheFlush : Obligations.FlushAckCompletesTheFlush := by
  intro h q s ch hr
  refine ⟨fun hstale => ?_, fun hf hq hop hst => ?_, fun hf hq hop hst => ?_, fun hf hq hno => ?_⟩
  · exact eflushAck_receives hr (handleEflushAck_stale hstale)
  · exact eflushAck_receives hr (handleEflushAck_buson hf hq hop hst)
  · exact eflushAck_receives hr ((handleEflushAck_stop hf hq hop hst).trans (stopDone_eq .ok))
  · exact eflushAck_receives hr (handleEflushAck_unawaited hf hq hno)

end Sys2Proof.Machine
end

section
/-! The derived state of a channel (10_state.md R27) and its table of transitions (42_channel_fsm.md R201): what each
handler makes of the three fields it is read from, and which context an operation leaves. -/

namespace Sys2Proof.Machine

/-! ### The derived state -/

/-- The request in progress awaits its flush acknowledgement or its start status (R26). -/
def awaitsAnswer (o : Op) (st : Stage) : Prop := (o ≠ .none ∧ st = .waitFlush) ∨ (o = .buson ∧ st = .waitStart)

/-- The fields the derived state is a function of (R27). -/
def fsmFields (ch : Chan) : Op × Stage × BusState := (ch.op, ch.stage, ch.busState)

theorem not_awaitsAnswer_none (st : Stage) : ¬ awaitsAnswer .none st := by simp [awaitsAnswer]

theorem fsmOfBus_ne_idleReset (b : BusState) : fsmOfBus b ≠ .idleReset := by cases b <;> nofun

section
variable {a ch : Chan} {o : Op} {st : Stage} {b : BusState}

theorem fsm_flushing (hop : ch.op ≠ .none) (hst : ch.stage = .waitFlush) : fsm ch = .flushing := if_pos ⟨hop, hst⟩

theorem fsm_idleReset (hop : ch.op = .buson) (hst : ch.stage = .waitStart) : fsm ch = .idleReset := by
  simp [fsm, hop, hst]

/-- A channel whose request awaits nothing is in the state of its bus. -/
theorem fsm_of_fields (h : fsmFields ch = (o, st, b)) (hno : ¬ awaitsAnswer o st) : fsm ch = fsmOfBus b := by
  cases h
  rw [awaitsAnswer, not_or] at hno
  rw [fsm, if_neg hno.1, if_neg hno.2]
  cases ch.busState <;> rfl

theorem fsm_congr (h : fsmFields a = fsmFields ch) : fsm a = fsm ch := by
  simp only [fsmFields, Prod.mk.injEq] at h
  obtain ⟨hop, hst, hb⟩ := h
  simp only [fsm, hop, hst, hb]

theorem fsm_cases (ch : Chan) :
    (ch.op ≠ .none ∧ ch.stage = .waitFlush ∧ fsm ch = .flushing) ∨
      (ch.op = .buson ∧ ch.stage = .waitStart ∧ fsm ch = .idleReset) ∨
      (¬ awaitsAnswer ch.op ch.stage ∧ fsm ch = fsmOfBus ch.busState) := by
  by_cases hw : awaitsAnswer ch.op ch.stage
  · obtain ⟨hop, hst⟩ | ⟨hop, hst⟩ := hw
    · exact .inl ⟨hop, hst, fsm_flushing hop hst⟩
    · exact .inr (.inl ⟨hop, hst, fsm_idleReset hop hst⟩)
  · exact .inr (.inr ⟨hw, fsm_of_fields rfl hw⟩)

theorem fsm_eq_idleReset_iff : fsm ch = .idleReset ↔ ch.op = .buson ∧ ch.stage = .waitStart := by
  refine ⟨fun h => ?_, fun ⟨hop, hst⟩ => fsm_idleReset hop hst⟩
  obtain ⟨-, -, he⟩ | ⟨hop, hst, -⟩ | ⟨-, he⟩ := fsm_cases ch
  · cases he.symm.trans h
  · exact ⟨hop, hst⟩
  · exact absurd (he.symm.trans h) (fsmOfBus_ne_idleReset _)

/-- An active channel, or one in bus-off, awaits no answer and is not stopped. -/
theorem fsm_online (h : fsm ch = .busOff ∨ ∃ b, fsm ch = .active b) :
    ¬ awaitsAnswer ch.op ch.stage ∧ ch.busState ≠ .stopped := by
  obtain ⟨-, -, he⟩ | ⟨-, -, he⟩ | ⟨hno, he⟩ := fsm_cases ch
  · simp [he] at h
  · simp [he] at h
  · refine ⟨hno, fun hb => ?_⟩
    simp [he, hb, fsmOfBus] at h

end

/-! ### The handlers -/

section
variable {x : Ctx} {w : Work} {ch : Chan}

theorem fsm_block {o : Op} (ho : o ≠ .none) : fsm (block x o w).ch = .flushing := fsm_flushing ho rfl

theorem fsm_flushAckedBuson (hop : w.ch.op = .buson) : fsm (flushAckedBuson x w).ch = .idleReset := fsm_idleReset hop rfl

theorem fsm_stopDone (r : Result) : fsm (stopDone x r w).ch = .stopped := by
  rw [stopDone_eq]
  exact fsm_of_fields rfl (not_awaitsAnswer_none _)

theorem fsm_startDone : fsm (startDone x (Work.start ch)).ch = .active .errorActive := by
  rw [startDone_start]
  exact fsm_of_fields rfl (not_awaitsAnswer_none _)

theorem tickWait_expires (h : w.ch.waitCnt = 1) :
    tickWait x w = waitExpire x (w.upd fun ch => { ch with waitCnt := 0 }) := by
  simp [tickWait, h, Work.upd]

theorem fsm_waitExpire_buson (hop : w.ch.op = .buson) : fsm (waitExpire x w).ch = fsmOfBus w.ch.busState := by
  simp only [waitExpire, hop]
  exact fsm_of_fields rfl (not_awaitsAnswer_none _)

theorem fsm_waitExpire_stop (hop : w.ch.op = .stop) : fsm (waitExpire x w).ch = .stopped := by
  simp only [waitExpire, hop]
  exact fsm_stopDone .timeout

/-- The poll timer starts, ends or answers no request, and is no classifier (R254). -/
theorem fsm_tickPoll : fsm (tickPoll x w).ch = fsm w.ch := by
  simp only [tickPoll, pollExpire]
  split
  · rfl
  split
  · split
    · exact fsm_congr rfl
    · split <;> exact fsm_congr rfl
  · exact fsm_congr rfl

/-! ### The classifier -/

theorem enterBusOff_fsmFields : fsmFields (enterBusOff x w).ch = fsmFields w.ch := by
  rw [enterBusOff_eq]
  rfl

theorem changeState_fsmFields (new : BusState) : fsmFields (changeState x new w).ch = (w.ch.op, w.ch.stage, new) := by
  simp only [changeState]
  split
  · split
    · exact enterBusOff_fsmFields
    · rfl
  · split
    · exact enterBusOff_fsmFields
    · rfl

theorem sendErr_fsmFields (e : ErrEvent) : fsmFields (sendErr x e w).ch = fsmFields w.ch := by
  rw [sendErr_ch]
  rfl

theorem errCapCheck_fsmFields : fsmFields (errCapCheck x w).ch = fsmFields w.ch := by
  simp only [errCapCheck]
  split <;> rfl

/-- A classified `ERROR` packet moves the bus state to the result and leaves the request alone (R248). -/
theorem handleError_fsmFields (ts : Stamp) (p : ErrorPkt) (hb : w.ch.busState ≠ .stopped) :
    fsmFields (handleError ts p x w).ch =
      (w.ch.op, w.ch.stage, (classify p.txerr p.rxerr (errorFlags p)).state) := by
  simp only [handleError, if_neg hb]
  refine errCapCheck_fsmFields.trans ((sendErr_fsmFields _).trans ?_)
  split
  · exact changeState_fsmFields _
  · next hsame => rw [not_not.1 hsame]; rfl

/-- So does a solicited response (R250). -/
theorem statusResponse_fsmFields (ts : Stamp) (p : StatusPkt) (hb : w.ch.busState ≠ .stopped) :
    fsmFields (statusResponse ts p x w).ch =
      (w.ch.op, w.ch.stage, (classify p.txerr p.rxerr (statusFlags p)).state) := by
  simp only [statusResponse, if_neg hb]
  split
  · split <;> exact (sendErr_fsmFields _).trans (changeState_fsmFields _)
  · next hsame => rw [not_not.1 hsame]; split <;> rfl

/-- A solicited response that is no end-of-flush, for a channel that awaits no answer, reaches the classifier (R187). -/
theorem handleStatus_solicited {ts : Stamp} {p : StatusPkt} (hno : ¬ awaitsAnswer w.ch.op w.ch.stage)
    (haut : p.aut = false) (hseq : p.seq = w.ch.cmdSeq)
    (hend : ¬ (w.ch.flushPending = true ∧ p.irm = true ∧ p.rmcd = true)) :
    handleStatus ts p x w = statusResponse ts p x w := by
  refine handleStatus_response (Bool.eq_false_iff.2 fun hs => hno ?_) (by simp [isRetrigger, haut])
    (Bool.eq_false_iff.2 (mt isEndOfFlush_iff.1 hend)) (by simp [seqIsCmd, haut, hseq])
  obtain ⟨hop, hst, -⟩ := isStart_iff.1 hs
  exact .inr ⟨hop, hst⟩

end

/-! ### The context an operation leaves -/

section
variable {s t : State} {c : Nat} {ch ch' x : Chan} {f : Ctx → Work → Work}

theorem context_of_set (hs : serves s c ch) (ht : t.channels = s.channels.set c x) (hch : t.channels[c]? = some ch') :
    ch' = x := by
  rw [ht, List.getElem?_set_self (lt_of_get hs.2)] at hch
  exact (Option.some.inj hch).symm

theorem request_context (hs : serves s c ch)
    (he : s.whenAttached (s.whenChan c (.next (s.onRequest c f))) = .next t) (hch : t.channels[c]? = some ch') :
    ch' = (f (s.ctx c) (Work.start ch)).ch := by
  cases (request_serves hs rfl).symm.trans he
  exact context_of_set hs rfl hch

theorem packet_context {h : Hdr} {len : Nat} (hs : serves s c ch) (hc : h.ch.toNat = c) (hsize : h.size = len)
    (he : s.packet h len f = .next t) (hch : t.channels[c]? = some ch') :
    ch' = (f (s.ctx c) (Work.start ch)).ch := by
  subst hc
  obtain ⟨ha, hb, -⟩ := State.packet_next.1 he
  cases (State.packet_receives f ⟨ha, hb, hs.2, hsize⟩).symm.trans he
  exact context_of_set hs rfl hch

/-- What a handler reads besides the context is the same after another channel's work (R20). -/
theorem State.onChan_ctx (d : Nat) : (s.onChan d f).ctx c = s.ctx c := by
  obtain ⟨-, he⟩ | ⟨ch, -, he⟩ := s.onChan_cases d f <;> rw [he]
  rfl

/-- A tick visits every channel of its range once (R285). -/
theorem tickFrom_get {d n : Nat} (hg : s.channels[c]? = some ch) (hd : d ≤ c) (hn : c < d + n) :
    (s.tickFrom d n).channels[c]? = some (tickChan (s.ctx c) (Work.start ch)).ch := by
  induction n generalizing s d with
  | zero => omega
  | succ n ih =>
    rw [State.tickFrom]
    by_cases hdc : d = c
    · subst hdc
      rw [(quietFor_tickFrom n (Nat.lt_succ_self d)).1, State.onChan_of_get tickChan hg]
      exact List.getElem?_set_self (lt_of_get hg)
    · have hg' : (s.onChan d tickChan).channels[c]? = some ch := (quietFor_onChan commands_tickChan hdc).1.trans hg
      rw [ih hg' (by omega) (by omega), State.onChan_ctx]

theorem tick_context (hs : serves s c ch) (he : exec .tick s = .next t) (hch : t.channels[c]? = some ch') :
    ch' = (tickChan (s.ctx c) (Work.start ch)).ch := by
  obtain ⟨-, ⟨⟩⟩ := State.whenAttached_next.1 he
  have hlt := lt_of_get hs.2
  rw [tickFrom_get hs.2 (Nat.zero_le c) (by omega)] at hch
  exact (Option.some.inj hch).symm

end

/-- Settles O56: the context an operation leaves is its handler's, and the handler decides the three fields that the
derived state is read from. -/
theorem stateMachineFollowsItsTable : Obligations.StateMachineFollowsItsTable := by
  intro s t c ch ch' hs hch
  refine ⟨fun hop he => ?_, fun hop he => ?_, fun h q hc hsize hf hq hst he => ⟨fun hop => ?_, fun hop => ?_⟩,
    fun h p hc hsize hidle hirm hrmcd hboff hseq he => ?_, fun hwait he => ⟨fun hop => ?_, fun hop => ?_⟩,
    fun honline => ⟨fun h p hc hsize he => ?_, fun h p hc hsize haut hseq hend he => ?_⟩⟩
  · rw [request_context hs he hch, requestBuson_idle _ hop]
    exact fsm_block (by decide)
  · rw [request_context hs he hch, requestStop_idle _ hop]
    exact fsm_block (by decide)
  · rw [packet_context hs hc hsize he hch, handleEflushAck_buson hf hq hop hst]
    exact fsm_flushAckedBuson hop
  · rw [packet_context hs hc hsize he hch, handleEflushAck_stop hf hq hop hst]
    exact fsm_stopDone .ok
  · obtain ⟨hop, hst⟩ := fsm_eq_idleReset_iff.1 hidle
    rw [packet_context hs hc hsize he hch, handleStatus_start (isStart_iff.2 ⟨hop, hst, hirm, hrmcd, hboff, hseq⟩)]
    exact fsm_startDone
  · rw [tick_context hs he hch, tickChan, fsm_tickPoll, tickWait_expires hwait]
    exact fsm_waitExpire_buson hop
  · rw [tick_context hs he hch, tickChan, fsm_tickPoll, tickWait_expires hwait]
    exact fsm_waitExpire_stop hop
  · obtain ⟨hno, hb⟩ := fsm_online honline
    rw [packet_context hs hc hsize he hch]
    exact fsm_of_fields (handleError_fsmFields h.ts p hb) hno
  · obtain ⟨hno, hb⟩ := fsm_online honline
    rw [packet_context hs hc hsize he hch, handleStatus_solicited hno haut hseq hend]
    exact fsm_of_fields (statusResponse_fsmFields h.ts p hb) hno

end Sys2Proof.Machine
end

section
/-! The echo tracker (43_tx_echo.md R220-R231): what an accepted frame and each case of an acknowledgement make of the
context, then of the state. -/

namespace Sys2Proof.Machine

/-! ### The ring -/

section
variable {ch : Chan} {i : Nat}

/-- An index past the ring names no slot, whatever empty slot is read there (R42). -/
theorem slotPresent_eq_getD {d : EchoSlot} (hd : d.present = false) :
    slotPresent ch i = (ch.slots.getD i d).present := by
  rw [slotPresent, List.getD_eq_getElem?_getD, List.getD_eq_getElem?_getD]
  cases ch.slots[i]? with
  | none => exact hd.symm
  | some sl => rfl

theorem noHeadroom_iff {cfg : Cfg} {hw : Byte} :
    noHeadroom cfg ch hw = true ↔ slotPresent ch ch.echoIdx = true ∨ cfg.k + 1 ≤ hw.toNat := by
  simp [noHeadroom, txMax]

/-- The send path resumes: it was stopped by a full ring, and there is headroom again (R228). -/
abbrev resumes (x : Ctx) (ch : Chan) : Prop :=
  ch.txFull = true ∧ slotPresent ch ch.echoIdx = false ∧ x.draw.hwCount.toNat < x.cfg.k + 1

theorem resumes_iff {x : Ctx} :
    (ch.txFull && !noHeadroom x.cfg ch x.draw.hwCount) = true ↔ resumes x ch := by
  simp [resumes, noHeadroom, txMax]

end

/-! ### A submitted frame -/

section
variable {x : Ctx} {w : Work} {f : TxFrame} {hwPre hwPost : Byte}

theorem requestSubmit_invalid (hv : ¬ submittable x.cfg x.c f) :
    requestSubmit f hwPre hwPost x w = w.return .invalidFrame :=
  if_pos (by simpa using mt (validFrame_iff x.cfg x.c f).1 hv)

theorem requestSubmit_valid (hv : submittable x.cfg x.c f) :
    requestSubmit f hwPre hwPost x w =
      if w.ch.txEnabled = false ∨ noHeadroom x.cfg w.ch hwPre = true then w.return .queueFull
      else accept x f hwPost w := by
  rw [requestSubmit, (validFrame_iff x.cfg x.c f).2 hv]
  cases w.ch.txEnabled <;> simp

/-- `STOP_CHECK` on an enabled send path closes it when the ring is full, with the signal on the edge only (R222). -/
theorem stopCheck_enabled {full : Prop} [Decidable full] (hfull : noHeadroom x.cfg w.ch hwPost = true ↔ full)
    (hte : w.ch.txEnabled = true) :
    stopCheck x hwPost w =
      { w with
        ch := { w.ch with txFull := if full then true else w.ch.txFull }
        out := w.out ++ (if full ∧ w.ch.txFull = false then [.txStop x.c] else []) } := by
  by_cases h : full
  · rw [stopCheck, if_pos (hfull.2 h)]
    apply Work.ext_fields <;> simp [h, hte, accepting]
  · rw [stopCheck, if_neg (mt hfull.1 h)]
    simp [h]

/-- An accepted frame occupies the slot of the index and goes to the FIFO; then `STOP_CHECK` reads the ring (R221). -/
theorem accept_enabled {ch : Chan} {full : Prop} [Decidable full] (hte : ch.txEnabled = true)
    (hfull : noHeadroom x.cfg { fillSlot ch.echoIdx f ch with echoIdx := (ch.echoIdx + 1) % x.cfg.k } hwPost = true ↔
      full) :
    accept x f hwPost (Work.start ch) =
      { ch := { ch with
          slots := (fillSlot ch.echoIdx f ch).slots
          echoIdx := (ch.echoIdx + 1) % x.cfg.k
          txFull := if full then true else ch.txFull }
        out := .txFifo x.c (encodeTx f ch.echoIdx (chanCfg x.cfg x.c).oneshot)
          :: (if full ∧ ch.txFull = false then [.txStop x.c] else [])
        log := [], ret := some (.okSlot ch.echoIdx) } := by
  rw [accept, stopCheck_enabled hfull hte]
  rfl

end

/-- Settles O19: the tests come in the order validity, send path, headroom; an accepted frame fills its slot and
advances the index before `STOP_CHECK` reads the ring. -/
theorem submitAdmitsOrRefuses : Obligations.SubmitAdmitsOrRefuses := by
  intro s c ch f hwPre hwPost hs
  refine ⟨fun hv => ?_, fun hv hfull => ?_, fun hv hte hfree hpre => ?_⟩
  · exact request_returns .invalidFrame hs (requestSubmit_invalid hv)
  · refine request_returns .queueFull hs ((requestSubmit_valid hv).trans (if_pos ?_))
    exact hfull.imp_right noHeadroom_iff.2
  · intro slots next full
    have hadmit : ¬ (ch.txEnabled = false ∨ noHeadroom s.cfg ch hwPre = true) := by
      simp [noHeadroom_iff, hte, hfree, Nat.le_of_lt_succ hpre]
    have hring : noHeadroom s.cfg { fillSlot ch.echoIdx f ch with echoIdx := next } hwPost = true ↔ full := by
      rw [noHeadroom_iff, slotPresent_eq_getD (d := ⟨false, 0, f⟩) rfl]
      rfl
    exact request_serves hs
      ((requestSubmit_valid hv).trans ((if_neg hadmit).trans (accept_enabled (x := s.ctx c) hte hring)))

/-! ### An acknowledged frame -/

section
variable {x : Ctx} {w : Work} {ts : Stamp} {p : AckPkt}

/-- The event of a NACK that a buffer can be had for (R230). -/
def nackEvents (x : Ctx) (ts : Stamp) (p : AckPkt) : List Event :=
  if p.nack = true ∧ x.draw.allocOk = true then [.onBusError x.c (nackEvent x ts p)] else []

/-- The log of a NACK without a buffer (R230). -/
def nackLog (x : Ctx) (p : AckPkt) : List Exc :=
  if p.nack = true ∧ x.draw.allocOk = false then [.allocationFailure x.c] else []

/-- The counters after a NACK with its event sent or dropped (R230). -/
def nackCounters (x : Ctx) (p : AckPkt) (k : Counters) : Counters :=
  if p.nack then
    { k with
      txErrors := k.txErrors + 1
      arbLost := k.arbLost + (if p.abl then 1 else 0)
      rxDropped := k.rxDropped + (if x.draw.allocOk then 0 else 1) }
  else k

theorem handleNack_eq :
    handleNack ts p x w =
      { w with
        ch := { w.ch with cnt := nackCounters x p w.ch.cnt }
        out := w.out ++ nackEvents x ts p
        log := w.log ++ nackLog x p } := by
  cases hn : p.nack with
  | false => simp [handleNack, nackCounters, nackEvents, nackLog, hn]
  | true =>
    rw [handleNack, if_pos hn]
    apply Work.ext_fields
    case h1 => cases habl : p.abl <;> cases hok : x.draw.allocOk <;> simp [nackCounters, countNack, hn, habl, hok]
    all_goals cases hok : x.draw.allocOk <;> simp [nackEvents, nackLog, hn, hok]

theorem resumeCheck_eq :
    resumeCheck x w =
      { w with
        ch := { w.ch with txFull := if resumes x w.ch then false else w.ch.txFull }
        out := w.out ++ (if resumes x w.ch ∧ w.ch.txEnabled = true then [.txResume x.c] else []) } := by
  by_cases h : resumes x w.ch
  · have hfull : w.ch.txFull = true := h.1
    rw [resumeCheck, if_pos (resumes_iff.2 h)]
    apply Work.ext_fields <;> simp [if_pos h, and_iff_right h, hfull, accepting]
  · rw [resumeCheck, if_neg (mt resumes_iff.1 h)]
    simp only [h, false_and, if_false, List.append_nil]

/-- The slot is emptied and reported, the frame counted unless NACKed, and then the send path may resume (R227). -/
theorem release_eq (i : Nat) :
    release ts p x i w =
      { w with
        ch := { w.ch with
          slots := (releaseSlot i w.ch).slots
          txFull := if resumes x (releaseSlot i w.ch) then false else w.ch.txFull
          cnt := if p.nack then w.ch.cnt else { w.ch.cnt with
            txPackets := w.ch.cnt.txPackets + 1
            txBytes := w.ch.cnt.txBytes + BitVec.ofNat 64 (slotLen w.ch i) } }
        out := w.out ++ [.onTxComplete x.c i (slotLen w.ch i) (scale x.cfg ts) (!p.nack)]
          ++ (if resumes x (releaseSlot i w.ch) ∧ w.ch.txEnabled = true then [.txResume x.c] else []) } := by
  cases hn : p.nack <;> simp only [release, hn, resumeCheck_eq] <;> rfl

theorem ackSlot_unknown (h : x.cfg.k ≤ p.seq.toNat ∨ slotPresent w.ch p.seq.toNat = false) :
    ackSlot ts p x w = w.logExc (.protocolViolation .unknownSlot x.c) :=
  if_pos (by simpa using h)

theorem ackSlot_known (hi : p.seq.toNat < x.cfg.k) (hp : slotPresent w.ch p.seq.toNat = true) :
    ackSlot ts p x w = if p.flu then w.upd (releaseSlot p.seq.toNat) else release ts p x p.seq.toNat w :=
  if_neg (by simpa [hp] using hi)

/-- The end of a flush that waited for the hardware to drain can be sent (R229). -/
abbrev eofDue (x : Ctx) (ch : Chan) : Prop :=
  ch.eofDeferred = true ∧ ch.flushPending = true ∧ x.draw.hwCount = 0

theorem deferredEof_eq :
    deferredEof x w =
      { w with
        ch := { w.ch with eofDeferred := if eofDue x w.ch then false else w.ch.eofDeferred }
        out := w.out ++ (if eofDue x w.ch then [.writeControl x.c] else []) } := by
  have hiff : (w.ch.eofDeferred && w.ch.flushPending && x.draw.hwCount == 0) = true ↔ eofDue x w.ch := by
    simp [eofDue, and_assoc]
  by_cases h : eofDue x w.ch
  · rw [deferredEof, if_pos (hiff.2 h), if_pos h, if_pos h]
    rfl
  · rw [deferredEof, if_neg (mt hiff.1 h), if_neg h, if_neg h, List.append_nil]

theorem handleAck_control (hct : p.ct = true) : handleAck ts p x w = w := if_pos hct

/-- The order of R224: the NACK, the slot, the deferred end-of-flush. -/
theorem handleAck_frame (hct : p.ct = false) :
    handleAck ts p x w = deferredEof x (ackSlot ts p x (handleNack ts p x w)) := by
  rw [handleAck, if_neg (by simp [hct])]

end

/-! ### The packet -/

section
variable {h : Hdr} {p : AckPkt} {s : State} {ch : Chan} {w : Work}

theorem ack_receives (hr : receives s h 5 ch) (hw : handleAck h.ts p (s.ctx h.ch.toNat) (Work.start ch) = w) :
    exec (.ack h p) s = .next ((s.after h.ch.toNat w.ch w.out w.log).pastPacket 5) :=
  State.packet_next_after hr hw

end

/-- Settles O35: the handler leaves its work as it was, so only the cursor moves. -/
theorem controlAckIsIgnored : Obligations.ControlAckIsIgnored := by
  intro h p s ch hr hct
  have taken := ack_receives hr (handleAck_control hct)
  obtain ⟨-, -, hg, -⟩ := hr
  rw [taken, Work.start_ch, Work.start_out, Work.start_log, State.after_self hg]

/-- Settles O36: neither the NACK before it nor the end-of-flush after it decides what becomes of the slot. -/
theorem frameAckReleasesItsSlot : Obligations.FrameAckReleasesItsSlot := by
  intro h p s ch hr hct c i ns events excs cnt eof eofEvents emptied resume
  have taken := ack_receives hr (handleAck_frame hct)
  rw [deferredEof_eq, handleNack_eq] at taken
  refine ⟨fun hno => ?_, fun hi hp hflu => ?_, fun hi hp hflu => ?_⟩
  · rw [ackSlot_unknown hno] at taken
    exact taken
  · rw [ackSlot_known hi hp, if_pos hflu] at taken
    exact taken
  · rw [ackSlot_known hi hp, if_neg (ne_true_of_eq_false hflu), release_eq] at taken
    exact taken

end Sys2Proof.Machine
end

section
/-! The Error/Status Classifier (44_error_classifier.md R241-R247, R254): its table, the poll timer and the state change. -/

namespace Sys2Proof.Machine

/-! ### The table -/

section
variable {tx rx tx' rx' : Byte} {f g : ErrFlags}

/-- The first line of R241. -/
abbrev isOff (tx rx : Byte) (f : ErrFlags) : Prop :=
  f.boff = true ∨ f.irm = true ∨ 255 ≤ tx.toNat ∨ 255 ≤ rx.toNat

/-- The second line of R241. -/
abbrev isPassive (tx rx : Byte) (f : ErrFlags) : Prop := f.eplr = true ∨ 128 ≤ tx.toNat ∨ 128 ≤ rx.toNat

/-- The third line of R241. -/
abbrev isWarning (tx rx : Byte) (f : ErrFlags) : Prop := f.ewlr = true ∨ 96 ≤ tx.toNat ∨ 96 ≤ rx.toNat

theorem classify_state :
    (classify tx rx f).state =
      if isOff tx rx f then .busOff else if isPassive tx rx f then .errorPassive
      else if isWarning tx rx f then .errorWarning else .errorActive := by
  simp only [classify, classifyState, Bool.or_eq_true, decide_eq_true_eq, or_assoc]
  rfl

/-- Exactly one line of the table applies, the first whose condition holds. -/
theorem classify_lines :
    (isOff tx rx f ∧ (classify tx rx f).state = .busOff) ∨
      (¬ isOff tx rx f ∧ isPassive tx rx f ∧ (classify tx rx f).state = .errorPassive) ∨
      (¬ isOff tx rx f ∧ ¬ isPassive tx rx f ∧ isWarning tx rx f ∧ (classify tx rx f).state = .errorWarning) ∨
      (¬ isOff tx rx f ∧ ¬ isPassive tx rx f ∧ ¬ isWarning tx rx f ∧ (classify tx rx f).state = .errorActive) := by
  rw [classify_state]
  by_cases ho : isOff tx rx f
  · exact .inl ⟨ho, if_pos ho⟩
  rw [if_neg ho]
  by_cases hp : isPassive tx rx f
  · exact .inr (.inl ⟨ho, hp, if_pos hp⟩)
  rw [if_neg hp]
  by_cases hw : isWarning tx rx f
  · exact .inr (.inr (.inl ⟨ho, hp, hw, if_pos hw⟩))
  · exact .inr (.inr (.inr ⟨ho, hp, hw, if_neg hw⟩))

/-- When every line that applies to one input applies to another, the other's state is at least as severe. -/
theorem classify_code_le (hoff : isOff tx rx f → isOff tx' rx' g) (hpassive : isPassive tx rx f → isPassive tx' rx' g)
    (hwarning : isWarning tx rx f → isWarning tx' rx' g) :
    (classify tx rx f).state.code ≤ (classify tx' rx' g).state.code := by
  rw [classify_state, classify_state]
  by_cases ho : isOff tx' rx' g
  · rw [if_pos ho]
    split_ifs <;> decide
  rw [if_neg ho, if_neg (mt hoff ho)]
  by_cases hp : isPassive tx' rx' g
  · rw [if_pos hp]
    split_ifs <;> decide
  rw [if_neg hp, if_neg (mt hpassive hp)]
  by_cases hw : isWarning tx' rx' g
  · rw [if_pos hw]
    split_ifs <;> decide
  rw [if_neg hw, if_neg (mt hwarning hw)]

end

/-- Settles O37: the lines are tested in order, and the halves by the larger counter. -/
theorem classifierFollowsItsTable : Obligations.ClassifierFollowsItsTable := by
  intro tx rx f off passive warning r
  have hlines : (off ∧ r.state = .busOff) ∨ (¬ off ∧ passive ∧ r.state = .errorPassive) ∨
      (¬ off ∧ ¬ passive ∧ warning ∧ r.state = .errorWarning) ∨
      (¬ off ∧ ¬ passive ∧ ¬ warning ∧ r.state = .errorActive) := classify_lines
  have hhalves : (rx.toNat ≤ tx.toNat → r.txState = r.state) ∧ (tx.toNat < rx.toNat → r.txState = .errorActive) ∧
      (tx.toNat ≤ rx.toNat → r.rxState = r.state) ∧ (rx.toNat < tx.toNat → r.rxState = .errorActive) :=
    ⟨fun h => if_pos h, fun h => if_neg (Nat.not_le.2 h), fun h => if_pos h, fun h => if_neg (Nat.not_le.2 h)⟩
  obtain ⟨ho, hs⟩ | ⟨ho, hp, hs⟩ | ⟨ho, hp, hw, hs⟩ | ⟨ho, hp, hw, hs⟩ := hlines
  · simpa [hs, ho] using hhalves
  · simpa [hs, ho, hp] using hhalves
  · simpa [hs, ho, hp, hw] using hhalves
  · simpa [hs, ho, hp, hw] using hhalves

/-- Settles O38: each line of the table holds on when counters and flags rise. -/
theorem classifierIsMonotone : Obligations.ClassifierIsMonotone := by
  intro tx tx' rx rx' f g htx hrx hboff hirm heplr hewlr
  have hcounters (n : Nat) : n ≤ tx.toNat ∨ n ≤ rx.toNat → n ≤ tx'.toNat ∨ n ≤ rx'.toNat :=
    Or.imp htx.trans' hrx.trans'
  exact classify_code_le (Or.imp hboff (Or.imp hirm (hcounters 255))) (Or.imp heplr (hcounters 128))
    (Or.imp hewlr (hcounters 96))

/-- Settles O39: the three examples are evaluated. -/
theorem classifierExamples : Obligations.ClassifierExamples := by
  refine ⟨?_, ?_, ?_⟩ <;> decide

/-! ### The poll timer -/

section
variable {x : Ctx} {w : Work}

theorem tickPoll_expires (h : w.ch.pollCnt = 1) :
    tickPoll x w = pollExpire x (w.upd fun ch => { ch with pollCnt := 0 }) := by
  simp [tickPoll, h, Work.upd]

theorem tickPoll_counts (h : 2 ≤ w.ch.pollCnt.toNat) :
    tickPoll x w = w.upd fun ch => { ch with pollCnt := ch.pollCnt - 1 } := by
  have hpos : w.ch.pollCnt ≠ 0 := by bv_omega
  have hmore : w.ch.pollCnt - 1 ≠ 0 := by bv_omega
  exact (if_neg hpos).trans (if_neg hmore)

theorem pollExpire_postpones (h : w.ch.op ≠ .none) :
    pollExpire x w = w.upd fun ch => { ch with pollCnt := x.cfg.tPoll } := if_pos h

theorem pollExpire_stopped (hop : w.ch.op = .none) (hb : w.ch.busState = .stopped) : pollExpire x w = w :=
  (if_neg (not_not.2 hop)).trans (if_pos hb)

theorem pollExpire_requests (hop : w.ch.op = .none) (hb : w.ch.busState ≠ .stopped) :
    pollExpire x w =
      { w with
        ch := { w.ch with errGenEn := true, cmdSeq := w.ch.cmdSeq + 1, errRepCnt := 0 }
        out := w.out ++ [.setModeBits x.c maskEpen maskEpen, .writeCommand x.c (w.ch.cmdSeq + 1) .requestStatus] } := by
  rw [pollExpire, if_neg (not_not.2 hop), if_neg hb]
  apply Work.ext_fields <;> simp

end

/-- Settles O23: on the way from 1 to 0 the timer expires, and its cases are those of R254. -/
theorem pollTimerRequestsTheStatus : Obligations.PollTimerRequestsTheStatus := by
  intro x w
  refine ⟨fun h => if_pos h, tickPoll_counts, fun h hop => ?_, fun h hop hb => ?_, fun h hop hb => ?_⟩
  · exact (tickPoll_expires h).trans (pollExpire_postpones hop)
  · exact (tickPoll_expires h).trans (pollExpire_stopped hop hb)
  · exact (tickPoll_expires h).trans (pollExpire_requests hop hb)

/-! ### The state change -/

section
variable {x : Ctx} {w : Work} {old new : BusState}

theorem countChange_eq (k : Counters) :
    countChange new k =
      { k with
        cntWarning := k.cntWarning + (if new = .errorWarning then 1 else 0)
        cntPassive := k.cntPassive + (if new = .errorPassive then 1 else 0)
        cntBusOff := k.cntBusOff + (if new = .busOff then 1 else 0) } := by
  cases new <;> simp [countChange]

/-- Bus-off is left for active under auto-restart (R246, R251). -/
abbrev restarts (x : Ctx) (old new : BusState) : Prop :=
  old = .busOff ∧ new = .errorActive ∧ 0 < (chanCfg x.cfg x.c).restartMs

theorem isRestart_iff : isRestart x old new = true ↔ restarts x old new := by
  simp [isRestart, restarts, and_assoc, Nat.pos_iff_ne_zero]

theorem changeClasses_eq :
    changeClasses x old new =
      { crtl := true, busOff := decide (new = .busOff), restarted := decide (restarts x old new) } := by
  rw [changeClasses, Bool.eq_iff_iff.2 (isRestart_iff.trans decide_eq_true_iff.symm)]
  rfl


/-- The flush that entering bus-off forces under manual restart, unless one is outstanding (R200). -/
abbrev forcesFlush (x : Ctx) (new : BusState) (ch : Chan) : Prop :=
  new = .busOff ∧ (chanCfg x.cfg x.c).restartMs = 0 ∧ ch.flushPending = false

/-- The new state is written, counted and announced before anything else (R246). -/
def enterState (x : Ctx) (new : BusState) (w : Work) : Work :=
  (w.upd fun ch => { ch with busState := new, cnt := countChange new ch.cnt }).emit
    (.onBusStateChange x.c w.ch.busState new)

theorem changeState_busOff : changeState x .busOff w = enterBusOff x (enterState x .busOff w) := by
  have hno : isRestart x w.ch.busState .busOff = false := by simp [isRestart]
  simp only [changeState, hno]
  rfl

theorem changeState_restart (h : restarts x w.ch.busState new) :
    changeState x new w =
      ((enterState x new w).count fun k => { k with restarts := k.restarts + 1 }).emit (.onRestart x.c) := by
  have hne : new ≠ .busOff := by simp [h.2.1]
  rw [changeState, if_neg hne, if_pos (isRestart_iff.2 h)]
  rfl

theorem changeState_other (hne : new ≠ .busOff) (h : ¬ restarts x w.ch.busState new) :
    changeState x new w = enterState x new w := by
  rw [changeState, if_neg hne, if_neg (mt isRestart_iff.1 h)]
  rfl

theorem changeState_eq (x : Ctx) (new : BusState) (w : Work) :
    changeState x new w =
      { w with
        ch := { w.ch with
          busState := new
          txEnabled := if new = .busOff then false else w.ch.txEnabled
          cmdSeq := if forcesFlush x new w.ch then w.ch.cmdSeq + 1 else w.ch.cmdSeq
          flushSeq := if forcesFlush x new w.ch then w.ch.cmdSeq + 1 else w.ch.flushSeq
          flushPending := if forcesFlush x new w.ch then true else w.ch.flushPending
          eofDeferred := if forcesFlush x new w.ch then false else w.ch.eofDeferred
          cnt := { w.ch.cnt with
            cntWarning := w.ch.cnt.cntWarning + (if new = .errorWarning then 1 else 0)
            cntPassive := w.ch.cnt.cntPassive + (if new = .errorPassive then 1 else 0)
            cntBusOff := w.ch.cnt.cntBusOff + (if new = .busOff then 1 else 0)
            restarts := w.ch.cnt.restarts + (if restarts x w.ch.busState new then 1 else 0) } }
        out := w.out ++ [.onBusStateChange x.c w.ch.busState new]
          ++ (if new = .busOff ∧ w.ch.txEnabled = true ∧ w.ch.txFull = false then [.txStop x.c] else [])
          ++ (if forcesFlush x new w.ch then [.writeCommand x.c (w.ch.cmdSeq + 1) .abortFlushReset] else [])
          ++ (if restarts x w.ch.busState new then [.onRestart x.c] else []) } := by
  by_cases hoff : new = .busOff
  · subst hoff
    have hno : ¬ restarts x w.ch.busState .busOff := by simp [restarts]
    rw [changeState_busOff, enterBusOff_eq]
    apply Work.ext_fields <;> simp [enterState, countChange_eq, forcesFlush, hno]
  have hno : ¬ forcesFlush x new w.ch := fun h => hoff h.1
  by_cases hre : restarts x w.ch.busState new
  · rw [changeState_restart hre]
    apply Work.ext_fields <;> simp [enterState, countChange_eq, hoff, if_neg hno, if_pos hre]
  · rw [changeState_other hoff hre]
    apply Work.ext_fields <;> simp [enterState, countChange_eq, hoff, if_neg hno, if_neg hre]

end

/-- Settles O41: bus-off, a restart and any other new state are told apart; the announcement comes first in each. -/
theorem stateChangeAnnouncesAndCounts : Obligations.StateChangeAnnouncesAndCounts :=
  fun x new w => ⟨changeState_eq x new w, changeClasses_eq⟩

end Sys2Proof.Machine
end

section
/-! The packets the Error/Status Classifier reads (44_error_classifier.md R245, R248-R250), and what they make of the
state. -/

namespace Sys2Proof.Machine

/-! ### The result of the classifier becomes the state -/

section
variable {x : Ctx} {st : BusState} {w : Work}

/-- What both call sites do with the result: the state changes when it is another one (R248, R250). -/
def adoptState (x : Ctx) (st : BusState) (w : Work) : Work := if st ≠ w.ch.busState then changeState x st w else w

/-- What a state change keeps is kept whether or not there is one. -/
theorem adoptState_cases {P : Work → Prop} (hchange : P (changeState x st w)) (hsame : P w) : P (adoptState x st w) := by
  unfold adoptState; split <;> assumption

@[simp] theorem adoptState_errRepCnt : (adoptState x st w).ch.errRepCnt = w.ch.errRepCnt :=
  adoptState_cases (P := fun v => v.ch.errRepCnt = w.ch.errRepCnt) (by rw [changeState_eq]) rfl

@[simp] theorem adoptState_errGenEn : (adoptState x st w).ch.errGenEn = w.ch.errGenEn :=
  adoptState_cases (P := fun v => v.ch.errGenEn = w.ch.errGenEn) (by rw [changeState_eq]) rfl

@[simp] theorem adoptState_pollCnt : (adoptState x st w).ch.pollCnt = w.ch.pollCnt :=
  adoptState_cases (P := fun v => v.ch.pollCnt = w.ch.pollCnt) (by rw [changeState_eq]) rfl

@[simp] theorem adoptState_log : (adoptState x st w).log = w.log :=
  adoptState_cases (P := fun v => v.log = w.log) (by rw [changeState_eq]) rfl

@[simp] theorem adoptState_ret : (adoptState x st w).ret = w.ret :=
  adoptState_cases (P := fun v => v.ret = w.ret) (by rw [changeState_eq]) rfl

@[simp] theorem adoptState_busState : (adoptState x st w).ch.busState = st := by
  unfold adoptState
  split
  · rw [changeState_eq]
  · next hsame => exact (not_not.1 hsame).symm

end

/-! ### An `ERROR` packet -/

section
variable {x : Ctx} {w : Work} {ts : Stamp} {p : ErrorPkt}

theorem countError_eq (k : Counters) :
    countError p k =
      { k with
        busErrors := k.busErrors + 1
        txErrors := k.txErrors + (if p.dirTx then 1 else 0)
        rxErrors := k.rxErrors + (if p.dirTx then 0 else 1) } := by
  cases hd : p.dirTx <;> simp [countError, hd]

/-- Error packets are disabled once the report count has reached its bound (R249). -/
abbrev capReached (reports : BitVec 32) (enabled : Bool) : Prop := 256 ≤ reports.toNat ∧ enabled = true

theorem errCapCheck_eq :
    let cap := capReached w.ch.errRepCnt w.ch.errGenEn
    errCapCheck x w =
      { w with
        ch := { w.ch with errGenEn := if cap then false else w.ch.errGenEn }
        out := w.out ++ (if cap then [.setModeBits x.c maskEpen 0] else []) } := by
  intro cap
  have hiff : (decide (Config.errCap ≤ w.ch.errRepCnt.toNat) && w.ch.errGenEn) = true ↔ cap := by
    rw [Bool.and_eq_true, decide_eq_true_iff]
    rfl
  by_cases h : cap
  · rw [errCapCheck, if_pos (hiff.2 h), if_pos h, if_pos h]
    rfl
  · rw [errCapCheck, if_neg (mt hiff.1 h), if_neg h, if_neg h, List.append_nil]

/-- The classes of a change and the halves are in the event of a change only (R248). -/
theorem errorEvent_eq {old : BusState} :
    let r := classify p.txerr p.rxerr (errorFlags p)
    errorEvent x ts p old =
      { classes :=
          { busError := true, cnt := true, crtl := decide (r.state ≠ old)
            busOff := decide (r.state ≠ old ∧ r.state = .busOff)
            restarted := decide (restarts x old r.state) }
        txState := if r.state ≠ old then r.txState else .errorActive
        rxState := if r.state ≠ old then r.rxState else .errorActive
        txerr := p.txerr, rxerr := p.rxerr, tsNs := scale x.cfg ts } := by
  intro r
  by_cases hsame : r.state = old
  · have hno : ¬ restarts x old r.state := by
      rintro ⟨hold, hnew, -⟩
      cases hold.symm.trans (hsame.symm.trans hnew)
    rw [errorEvent, if_neg (not_not.2 hsame), decide_eq_false hno]
    simp [hsame, r]
  · rw [errorEvent, if_pos hsame, changeClasses_eq]
    simp [hsame, r, ErrClasses.union]

theorem handleError_classified (hb : w.ch.busState ≠ .stopped) :
    let v := adoptState x (classify p.txerr p.rxerr (errorFlags p)).state w
    let cap := capReached (w.ch.errRepCnt + 1) w.ch.errGenEn
    handleError ts p x w =
      { ch := { v.ch with
          errRepCnt := w.ch.errRepCnt + 1
          txErr := p.txerr
          rxErr := p.rxerr
          errGenEn := if cap then false else w.ch.errGenEn
          pollCnt := x.cfg.tPoll
          cnt := { v.ch.cnt with
            busErrors := v.ch.cnt.busErrors + 1
            txErrors := v.ch.cnt.txErrors + (if p.dirTx then 1 else 0)
            rxErrors := v.ch.cnt.rxErrors + (if p.dirTx then 0 else 1)
            rxDropped := v.ch.cnt.rxDropped + (if x.draw.allocOk then 0 else 1) } }
        out := v.out ++ (if x.draw.allocOk then [.onBusError x.c (errorEvent x ts p w.ch.busState)] else [])
          ++ (if cap then [.setModeBits x.c maskEpen 0] else [])
        log := w.log ++ (if x.draw.allocOk then [] else [.allocationFailure x.c])
        ret := w.ret } := by
  intro v cap
  have hv : (if (classify p.txerr p.rxerr (errorFlags p)).state ≠ w.ch.busState then
      changeState x (classify p.txerr p.rxerr (errorFlags p)).state w else w) = v := rfl
  simp only [handleError, if_neg hb, hv, errCapCheck_eq]
  apply Work.ext_fields
  case h1 => cases hok : x.draw.allocOk <;> simp [v, cap, countError_eq, hok]
  all_goals simp [v, cap]

end

/-! ### A solicited response -/

section
variable {x : Ctx} {w : Work} {ts : Stamp} {p : StatusPkt}

/-- The event of a changed state carries the classes of the change (R250). -/
theorem responseEvent_eq {old : BusState} :
    let r := classify p.txerr p.rxerr (statusFlags p)
    responseEvent x ts p old =
      { classes :=
          { cnt := true, crtl := true, busOff := decide (r.state = .busOff)
            restarted := decide (restarts x old r.state) }
        txState := r.txState, rxState := r.rxState
        txerr := p.txerr, rxerr := p.rxerr, tsNs := scale x.cfg ts } := by
  rw [responseEvent, changeClasses_eq]
  simp [ErrClasses.union]

/-- A change is followed by its event, sent or dropped; without one there is none (R250). -/
theorem reportChange_eq {st : BusState} {e : ErrEvent} :
    let v := adoptState x st w
    let changed := st ≠ w.ch.busState
    (if changed then sendErr x e (changeState x st w) else w) =
      { ch := { v.ch with
          cnt := { v.ch.cnt with
            rxDropped := v.ch.cnt.rxDropped + (if changed ∧ x.draw.allocOk = false then 1 else 0) } }
        out := v.out ++ (if changed ∧ x.draw.allocOk = true then [.onBusError x.c e] else [])
        log := w.log ++ (if changed ∧ x.draw.allocOk = false then [.allocationFailure x.c] else [])
        ret := w.ret } := by
  intro v changed
  by_cases hch : changed
  · have hv : v = changeState x st w := if_pos hch
    have hlog : v.log = w.log := adoptState_log
    have hret : v.ret = w.ret := adoptState_ret
    rw [if_pos hch, ← hv]
    apply Work.ext_fields <;> cases hok : x.draw.allocOk <;> simp [hch, hok, hlog, hret]
  · have hv : v = w := if_neg hch
    simp [hch, hv]

/-- The poll timer is armed on a condition, and nothing else is touched (R250). -/
theorem armPoll_eq {active : Prop} [Decidable active] {t : BitVec 32} :
    (if active then w.upd fun ch => { ch with pollCnt := t } else w) =
      { w with ch := { w.ch with pollCnt := if active then t else w.ch.pollCnt } } := by
  by_cases h : active
  · rw [if_pos h, if_pos h]
    rfl
  · rw [if_neg h, if_neg h]

theorem statusResponse_classified (hb : w.ch.busState ≠ .stopped) :
    let r := classify p.txerr p.rxerr (statusFlags p)
    let v := adoptState x r.state w
    let changed := r.state ≠ w.ch.busState
    let active := p.txerr ≠ 0 ∨ p.rxerr ≠ 0 ∨ r.state = .errorWarning ∨ r.state = .errorPassive
    statusResponse ts p x w =
      { ch := { v.ch with
          txErr := p.txerr
          rxErr := p.rxerr
          pollCnt := if active then x.cfg.tPoll else w.ch.pollCnt
          cnt := { v.ch.cnt with
            rxDropped := v.ch.cnt.rxDropped + (if changed ∧ x.draw.allocOk = false then 1 else 0) } }
        out := v.out
          ++ (if changed ∧ x.draw.allocOk = true then [.onBusError x.c (responseEvent x ts p w.ch.busState)] else [])
        log := w.log ++ (if changed ∧ x.draw.allocOk = false then [.allocationFailure x.c] else [])
        ret := w.ret } := by
  intro r v changed active
  simp only [statusResponse, if_neg hb, reportChange_eq, armPoll_eq]
  apply Work.ext_fields
  case h1 => simp [v, r, active, changed]
  all_goals rfl

/-- A solicited response that neither starts the channel nor ends its flush reaches the classifier (R187 branch S3). -/
theorem handleStatus_answered (haut : p.aut = false) (hseq : p.seq = w.ch.cmdSeq)
    (hstart : ¬ (w.ch.op = .buson ∧ w.ch.stage = .waitStart ∧ p.irm = false ∧ p.rmcd = false ∧ p.boff = false))
    (hend : ¬ (w.ch.flushPending = true ∧ p.irm = true ∧ p.rmcd = true)) :
    handleStatus ts p x w = statusResponse ts p x w := by
  refine handleStatus_response (Bool.eq_false_iff.2 fun hs => hstart ?_) (by simp [isRetrigger, haut])
    (Bool.eq_false_iff.2 (mt isEndOfFlush_iff.1 hend)) (by simp [seqIsCmd, haut, hseq])
  obtain ⟨hop, hst, hirm, hrmcd, hboff, -⟩ := isStart_iff.1 hs
  exact ⟨hop, hst, hirm, hrmcd, hboff⟩

end

/-! ### The packets -/

section
variable {h : Hdr} {p : ErrorPkt} {s : State} {ch : Chan} {w : Work}

theorem error_receives (hr : receives s h 5 ch) (hw : handleError h.ts p (s.ctx h.ch.toNat) (Work.start ch) = w) :
    exec (.error h p) s = .next ((s.after h.ch.toNat w.ch w.out w.log).pastPacket 5) :=
  State.packet_next_after hr hw

end

/-- Settles O40: both handlers leave their work as it was, so only the cursor moves. -/
theorem stoppedChannelIsNotClassified : Obligations.StoppedChannelIsNotClassified := by
  intro h s ch hr hb
  have ⟨_, _, hg, _⟩ := hr
  have hunchanged : s.after h.ch.toNat ch [] [] = s := State.after_self hg
  refine ⟨fun p => ?_, fun p haut hseq hstart hend => ?_⟩
  · have taken := error_receives (p := p) hr (if_pos hb)
    rwa [Work.start_ch, Work.start_out, Work.start_log, hunchanged] at taken
  · have taken := status_receives hr ((handleStatus_answered haut hseq hstart hend).trans (if_pos hb))
    rwa [Work.start_ch, Work.start_out, Work.start_log, hunchanged] at taken

/-- Settles O42: the change, the stored values, the event and the cap check follow each other. -/
theorem errorPacketIsClassifiedAndReported : Obligations.ErrorPacketIsClassifiedAndReported := by
  intro h p s ch hr hb c x r changed w cap restart
  have taken := error_receives hr (handleError_classified (p := p) hb)
  rw [errorEvent_eq] at taken
  exact taken

/-- Settles O46: the packet takes the branch of a solicited response; the event comes with a change only. -/
theorem solicitedStatusIsClassified : Obligations.SolicitedStatusIsClassified := by
  intro h p s ch hr haut hseq hstart hend hb c x r changed w restart active
  have taken := status_receives hr
    ((handleStatus_answered haut hseq hstart hend).trans (statusResponse_classified (p := p) hb))
  rw [responseEvent_eq] at taken
  exact taken

end Sys2Proof.Machine
end

section
/-! The wait timer (60_exceptions.md R285) and how it ends the request in progress (42_channel_fsm.md R197-R199). -/

namespace Sys2Proof.Machine

section
variable {x : Ctx} {w : Work}

theorem tickWait_counts (h : 2 ≤ w.ch.waitCnt.toNat) :
    tickWait x w = w.upd fun ch => { ch with waitCnt := ch.waitCnt - 1 } := by
  have hpos : w.ch.waitCnt ≠ 0 := by bv_omega
  have hmore : w.ch.waitCnt - 1 ≠ 0 := by bv_omega
  exact (if_neg hpos).trans (if_neg hmore)

/-- A bus-on that times out gives up a flush it still waits for, and clears the deferred end-of-flush (R198, log 18). -/
theorem waitExpire_buson (hop : w.ch.op = .buson) :
    waitExpire x w =
      { w with
        ch := { w.ch with
          op := .none
          flushPending := if w.ch.stage = .waitFlush then false else w.ch.flushPending
          eofDeferred := false }
        out := w.out ++ [.opDone x.c .buson .timeout] } := by
  simp only [waitExpire, hop]
  apply Work.ext_fields
  case h1 => cases hst : w.ch.stage <;> simp [hst]
  all_goals rfl

/-- A stop that times out gives up its flush and completes like an acknowledged one (R199, R197). -/
theorem waitExpire_stop (hop : w.ch.op = .stop) : waitExpire x w = stopDone x .timeout (clearFlush w) := by
  simp only [waitExpire, hop]

end

/-- Settles O22: on the way from 1 to 0 the timer expires, and the request in progress decides what that does. -/
theorem waitTimerEndsTheRequest : Obligations.WaitTimerEndsTheRequest := by
  intro x ch
  refine ⟨fun h => if_pos h, fun h => tickWait_counts h, fun h hop => ?_, fun h hop => ?_⟩
  · exact (tickWait_expires h).trans (waitExpire_buson hop)
  · rw [tickWait_expires h, waitExpire_stop hop, stopDone_eq]
    rfl

end Sys2Proof.Machine
end

section
/-! The tick (60_exceptions.md R285): the timers of every channel, in increasing order, and nothing else. -/

namespace Sys2Proof.Machine

/-! ### The timers log nothing -/

section
variable {x : Ctx} {w : Work}

@[simp] theorem stopDone_log (r : Result) : (stopDone x r w).log = w.log := by rw [stopDone_eq]

@[simp] theorem waitExpire_log : (waitExpire x w).log = w.log := by
  cases hop : w.ch.op with
  | none => simp only [waitExpire, hop]
  | buson => rw [waitExpire_buson hop]
  | stop => rw [waitExpire_stop hop, stopDone_log, clearFlush_log]

@[simp] theorem tickWait_log : (tickWait x w).log = w.log := by
  simp only [tickWait]; split_ifs <;> simp

@[simp] theorem pollExpire_log : (pollExpire x w).log = w.log := by
  simp only [pollExpire]; split_ifs <;> simp

@[simp] theorem tickPoll_log : (tickPoll x w).log = w.log := by
  simp only [tickPoll]; split_ifs <;> simp

@[simp] theorem tickChan_log : (tickChan x w).log = w.log := by rw [tickChan, tickPoll_log, tickWait_log]

end

/-! ### The visits -/

/-- What a tick of `s` makes of a channel `c` that has the context `ch` (R285). -/
def State.visit (s : State) (c : Nat) (ch : Chan) : Work := tickChan (s.ctx c) (Work.start ch)

/-- The outputs of the visits of the contexts `chs`, the first of which is channel `c`'s. -/
def State.visitsOut (s : State) (c : Nat) (chs : List Chan) : List Event :=
  (chs.mapIdx fun i ch => (s.visit (c + i) ch).out).flatten

/-- `s` after the visits of the channels from `done.length` on, which have the contexts `chs`; the channels before them
have the contexts `done`. -/
def State.visited (s : State) (done chs : List Chan) : State :=
  { s with
    channels := done ++ chs.mapIdx fun i ch => (s.visit (done.length + i) ch).ch
    trace := s.trace ++ s.visitsOut done.length chs
    outbox := s.outbox ++ (s.visitsOut done.length chs).flatMap Event.regWrites }

theorem State.visitsOut_cons (s : State) (c : Nat) (ch : Chan) (chs : List Chan) :
    s.visitsOut c (ch :: chs) = (s.visit c ch).out ++ s.visitsOut (c + 1) chs := by
  simp [visitsOut, List.mapIdx_cons, Nat.add_assoc, Nat.add_comm 1]

theorem State.visited_nil {s : State} {done : List Chan} (h : s.channels = done) : s.visited done [] = s := by
  subst h
  simp [visited, visitsOut]

/-- `s` after the visit of channel `c`, which has the context `ch`. -/
def State.visitOne (s : State) (c : Nat) (ch : Chan) : State := s.after c (s.visit c ch).ch (s.visit c ch).out []

/-- The timers' work is committed, and they log nothing. -/
theorem State.onChan_tickChan {s : State} {c : Nat} {ch : Chan} (h : s.channels[c]? = some ch) :
    s.onChan c tickChan = s.visitOne c ch := by
  have hlog : (s.visit c ch).log = [] := tickChan_log
  rw [State.onChan_of_get tickChan h, State.commit_eq_after, State.visitOne, ← hlog]
  rfl

theorem State.visitOne_channels {s : State} {done chs : List Chan} {ch : Chan} (h : s.channels = done ++ ch :: chs) :
    (s.visitOne done.length ch).channels = done ++ [(s.visit done.length ch).ch] ++ chs := by
  simp [visitOne, State.after, h]

/-- A visit leaves the configuration and the draws that the later ones read as they were (R20), so what the later ones
do can be told from the state before it. -/
theorem State.visited_visitOne (s : State) (done : List Chan) (ch : Chan) (chs : List Chan) :
    (s.visitOne done.length ch).visited (done ++ [(s.visit done.length ch).ch]) chs = s.visited done (ch :: chs) := by
  have hvisit : (s.visitOne done.length ch).visit = s.visit := rfl
  have hout : (s.visitOne done.length ch).visitsOut = s.visitsOut := rfl
  simp only [visited, hvisit, hout, visitsOut_cons]
  simp [visitOne, State.after, List.mapIdx_cons, Nat.add_assoc, Nat.add_comm 1]

/-- The visits of the channels from one on to the last, in increasing order. -/
theorem State.tickFrom_eq_visited (chs : List Chan) {s : State} {done : List Chan} (h : s.channels = done ++ chs) :
    s.tickFrom done.length chs.length = s.visited done chs := by
  induction chs generalizing s done with
  | nil => exact (State.visited_nil (h.trans (List.append_nil done))).symm
  | cons ch chs ih =>
    have hget : s.channels[done.length]? = some ch := by simp [h]
    have hrest := ih (State.visitOne_channels h)
    rw [List.length_append, List.length_singleton] at hrest
    rw [List.length_cons, State.tickFrom, State.onChan_tickChan hget, hrest, State.visited_visitOne]

/-- Settles O21: a tick makes the visits from channel 0 to the last. -/
theorem tickVisitsEveryChannel : Obligations.TickVisitsEveryChannel := by
  intro s ha visit
  have hall : s.tickFrom 0 s.channels.length = s.visited [] s.channels :=
    State.tickFrom_eq_visited (done := []) s.channels rfl
  have hzero : (fun c => s.visit (0 + c)) = visit := funext fun c => by rw [Nat.zero_add]; rfl
  refine State.whenAttached_next.2 ⟨ha, congrArg _ (hall.trans ?_)⟩
  rw [← hzero]
  rfl

end Sys2Proof.Machine
end

section
/-! The notifications that change no state or wait (60_exceptions.md R280, R283). -/

namespace Sys2Proof.Machine

section
variable {s : State} {c : Nat} {b : Buf}

/-! While a notification is handled (R280): a status notification and the losses of the DMA are held pending. -/

theorem txStatus_held (ha : s.attached = true) (hb : s.notifyBusy = true) (hc : c < s.channels.length) :
    exec (.txStatus c) s = .next (s.hold (.txStatus c)) :=
  State.whenAttached_next.2 ⟨ha, State.whenChan_next.2 ⟨hc, congrArg _ (if_pos hb)⟩⟩

theorem dmaOverflow_held (ha : s.attached = true) (hb : s.notifyBusy = true) :
    exec (.dmaOverflow b) s = .next (s.hold (.dmaOverflow b)) :=
  State.whenAttached_next.2 ⟨ha, congrArg _ (if_pos hb)⟩

theorem dmaUnderflow_held (ha : s.attached = true) (hb : s.notifyBusy = true) :
    exec (.dmaUnderflow b) s = .next (s.hold (.dmaUnderflow b)) :=
  State.whenAttached_next.2 ⟨ha, congrArg _ (if_pos hb)⟩

/-- The first signal of a buffer marks it pending and is held (R280). -/
theorem rxReady_held (ha : s.attached = true) (hb : s.notifyBusy = true) (hp : s.rxPending.get b = false) :
    exec (.rxReady b) s = .next ({ s with rxPending := s.rxPending.set b true }.hold (.rxReady b)) :=
  State.whenAttached_next.2 ⟨ha, congrArg _ ((if_pos hb).trans (if_neg (Bool.eq_false_iff.1 hp)))⟩

/-- A further signal of a pending buffer adds nothing (log 16). -/
theorem rxReady_again (ha : s.attached = true) (hb : s.notifyBusy = true) (hp : s.rxPending.get b = true) :
    exec (.rxReady b) s = .next s :=
  State.whenAttached_next.2 ⟨ha, congrArg _ ((if_pos hb).trans (if_pos hp))⟩

/-- The acknowledge leaves an idle handler as it is (R281). -/
theorem State.ackNotification_idle (hb : s.notifyBusy = false) : s.ackNotification = s :=
  State.count_ackNotification hb s.global

end

/-- Settles O26: no notification is being handled, so the acknowledge changes nothing. -/
theorem txStatusHasNoEffect : Obligations.TxStatusHasNoEffect := by
  intro s c ha hb hc
  have hserve : (if s.notifyBusy then s.hold (.txStatus c) else s.ackNotification) = s :=
    (if_neg (by simp [hb])).trans (State.ackNotification_idle hb)
  exact State.whenAttached_next.2 ⟨ha, State.whenChan_next.2 ⟨hc, congrArg _ hserve⟩⟩

/-- Settles O27: each notification takes the branch of a busy handler. -/
theorem notificationsWaitWhileOneIsHandled : Obligations.NotificationsWaitWhileOneIsHandled := by
  intro s b c ha hb
  exact ⟨rxReady_held ha hb, rxReady_again ha hb, txStatus_held ha hb, dmaOverflow_held ha hb,
    dmaUnderflow_held ha hb⟩

end Sys2Proof.Machine
end

section
/-! Attach, reset and detach (70_reset_and_hazards.md R300, R301, R303, R311). -/

namespace Sys2Proof.Machine

section
variable {s : State} {cfg : Cfg}

/-! ### The contexts of an attach (R300) -/

/-- `k` empty echo slots, whatever their frames are (R42, R300). -/
def EmptySlots (k : Nat) (slots : List EchoSlot) : Prop :=
  slots.length = k ∧ ∀ sl ∈ slots, sl.present = false ∧ sl.len = 0

theorem emptySlots_attachSlots (k start : Nat) : EmptySlots k (attachSlots k start) := by
  refine ⟨by simp [attachSlots], fun sl hsl => ?_⟩
  obtain ⟨i, -, rfl⟩ := List.mem_map.1 hsl
  exact ⟨rfl, rfl⟩

theorem emptySlots_replicate (k : Nat) (f : TxFrame) : EmptySlots k (List.replicate k (emptySlot f)) := by
  refine ⟨List.length_replicate, fun sl hsl => ?_⟩
  rw [List.eq_of_mem_replicate hsl]
  exact ⟨rfl, rfl⟩

theorem attachChannels_length (cfg : Cfg) (start : Nat) : (attachChannels cfg start).length = cfg.n := by
  simp [attachChannels]

theorem mem_attachChannels {start : Nat} {ch : Chan} (h : ch ∈ attachChannels cfg start) :
    ∃ slots, EmptySlots cfg.k slots ∧ ch = resetChan slots := by
  obtain ⟨c, -, rfl⟩ := List.mem_map.1 h
  exact ⟨_, emptySlots_attachSlots _ _, rfl⟩

theorem mem_reset_channels {ch : Chan} (h : ch ∈ State.reset.channels) :
    ∃ slots, EmptySlots State.reset.cfg.k slots ∧ ch = resetChan slots :=
  ⟨_, emptySlots_replicate _ _, List.eq_of_mem_replicate h⟩

/-! ### The two outcomes of `ATTACH` (R301) -/

theorem exec_attach_refused (h : s.attached = true ∨ ¬ cfgLegal cfg) :
    exec (.attach cfg) s = .next (s.returns .refused) :=
  if_pos (by simpa [← cfgOk_iff] using h)

theorem exec_attach_accepted (ha : s.attached = false) (hc : cfgLegal cfg) :
    exec (.attach cfg) s = .next (s.attachWith cfg) :=
  if_neg (by simp [ha, (cfgOk_iff cfg).2 hc])

/-! ### While detached (R311) -/

theorem State.whenAttached_detached (ha : s.attached = false) (k : Host.Outcome State Fault Refusal) :
    s.whenAttached k = .fault .notAttached := if_neg (by simp [ha])

/-- The operations of the core but `ATTACH`: what they do, they do while attached. -/
theorem exec_eq_whenAttached {i : Instr} (ho : isOutbound i = false) (hi : ∀ cfg, i ≠ .attach cfg) (s : State) :
    ∃ k, exec i s = s.whenAttached k := by
  cases hr : ringHdr i with
  | some h =>
    obtain ⟨f, hf⟩ := exec_ringHdr hr
    exact ⟨_, hf s⟩
  | none =>
    cases i with
    | endMark | undersize1 | undersize2 | undersize3 | undersize4 => exact ⟨_, rfl⟩
    | requestStatus | abortFlushReset | eflush | modeClearRm | modeClearEpen | modeSetEpen | txFrame => cases ho
    | attach cfg => exact absurd rfl (hi cfg)
    | detach | buson | stop | submit | tick => exact ⟨_, rfl⟩
    | rxReady | txStatus | dmaOverflow | dmaUnderflow => exact ⟨_, rfl⟩
    | _ => cases hr

end

/-- Settles O14: `ATTACH` tests the attachment and `CFG_OK` (R301), and builds each context from a ring of empty slots. -/
theorem attachResetsOrIsRefused : Obligations.AttachResetsOrIsRefused := by
  refine ⟨fun s cfg h => exec_attach_refused h, fun s cfg ha hc => ?_⟩
  refine ⟨_, _, _, _, exec_attach_accepted ha hc, attachChannels_length cfg s.freeCount, fun ch hch => ?_⟩
  obtain ⟨slots, ⟨hlen, hempty⟩, rfl⟩ := mem_attachChannels hch
  exact ⟨slots, hlen, hempty, rfl⟩

/-- Settles O12: the contexts of the reset state are those of an attach. -/
theorem resetHoldsTheStatedValues : Obligations.ResetHoldsTheStatedValues := by
  refine ⟨rfl, List.length_replicate, rfl, rfl, rfl, rfl, fun ch hch => ?_⟩
  obtain ⟨slots, ⟨hlen, hempty⟩, rfl⟩ := mem_reset_channels hch
  simp only [resetChan, hlen, true_and, and_true]
  exact hempty

/-- Settles O15: an attached core takes the operation, which gives no result. -/
theorem detachDestroysTheContexts : Obligations.DetachDestroysTheContexts :=
  fun _ ha => ⟨none, State.whenAttached_attached ha _⟩

/-- Settles O16: each of these operations asks for the attachment before anything else. -/
theorem nothingElseRunsDetached : Obligations.NothingElseRunsDetached := by
  intro i s ha ho hi
  obtain ⟨k, hk⟩ := exec_eq_whenAttached ho hi s
  rw [hk, State.whenAttached_detached ha]

end Sys2Proof.Machine
end
